-- ==== Sys2Proof/Word.lean ====
section
/-! DEFINITION. The word types of the mathdis CORE decoder: the 24-bit microcode word, the 8-bit byte
of a source file and the 8-bit word address (spec/00_scope.md section 4). -/

namespace Sys2Proof

/-- A microcode word, "24-bit unsigned value"; bit 0 is the least significant (R31, R50, R51). -/
abbrev Word := BitVec 24

/-- A byte of a nibble source or of the dispatch source (R32, R33). -/
abbrev Byte := BitVec 8

/-- A word address of the 256-word store, and a jump address (R34, R93). -/
abbrev Address := BitVec 8

end Sys2Proof
end

