-- ==== Sys2Proof/Config.lean ====
section
/-! DEFINITION. The fixed parameters of the machine (spec/00_scope.md section 4) and its free values:
constants with no body, of which nothing can be proved but what holds for every value. -/

namespace Sys2Proof

/-- Words in the store, addresses 0 to 255 (R31). -/
def Config.storeWords : Nat := 256

/-- Bytes expected of each nibble source: one for each address (R242). -/
def Config.nibbleBytes : Nat := 256

/-- Bytes expected of the dispatch source, one for each dispatch code (R33, R242). -/
def Config.dispatchBytes : Nat := 32

/-- FREE VALUE (log entry 8). The word the Word Store makes of six source bytes of which one is 16 or
more. The formula of R32 and its gloss disagree there (conflict C9) and the spec makes "every source byte
is below 16" a precondition (D20), forbidding to assume either that the bytes are masked or that they are
not (N15). -/
opaque Config.wideSourceWord : List Byte → Word

/-- FREE VALUE (log entry 19). The text of one row of the listing, from its six columns (dispatch code,
address, raw word, flag letters, jump column, instruction): the open parameter `format_row` of the
external Listing Formatter (R41, D30). -/
opaque Config.formatRow : Option (BitVec 5) → Address → Word → String → String → String → String

end Sys2Proof
end

