-- ==== Sys2Proof/Syntax.lean ====
section
/-! DEFINITION. The instruction set: one constructor for each row of spec/opcode_table.json. The word is
horizontal microcode: every field acts at once (R57), so a word is not one instruction but the list of
the rows that act in it (Decode.lean, `decodeRows`). A constructor's arguments are the fields that its
row's rule reads. -/

namespace Sys2Proof

/-- The twelve independent outputs of the Field Decoder (R81 to R92). Its four others, `jaddr`, `jvalid`,
`eos` and `showY`, are functions of these (Flags.lean and Decode.lean). `sh` and `sl` share their low two
bits in every word (R96). -/
structure Fields where
  /-- register index `a` (R81) -/
  a : BitVec 4
  /-- register index `b` (R82) -/
  b : BitVec 4
  /-- ALU function code (R83) -/
  f : BitVec 3
  /-- high-select code (R84) -/
  sh : BitVec 3
  /-- low-select code (R85) -/
  sl : BitVec 3
  /-- destination code, the document's field `d` (R86, conflict C1) -/
  dst : BitVec 3
  /-- flag `H` (R87) -/
  H : Bool
  /-- flag `L` (R88) -/
  L : Bool
  /-- flag `S` (R89) -/
  S : Bool
  /-- flag `J` (R90) -/
  J : Bool
  /-- multiplexer bit `M` (R91) -/
  M : Bool
  /-- carry-in bit `C` (R92) -/
  C : Bool
  deriving DecidableEq, Repr

/-- All fields zero: the fields of the word 0. -/
def Fields.zero : Fields :=
  { a := 0, b := 0, f := 0, sh := 0, sl := 0, dst := 0,
    H := false, L := false, S := false, J := false, M := false, C := false }

/-- Which select code of the word reaches a ROM entry: an ALU row of the opcode table has one pattern for
each (R57, masks 0x00B700 and 0x007700). `high` is the main lookup (R211), `low` the alternate (R212). -/
inductive SelPath where
  | high
  | low
  deriving DecidableEq, Repr

/-- The rows of spec/opcode_table.json, in its order. -/
inductive Instr where
  /-- MW24: the format of every word; cuts the fields (R98). -/
  | mw24 (x : Fields)
  /-- ALU_F0_S0: function 0, select 0, template `Ra+q` (R120). -/
  | aluF0S0 (path : SelPath) (a b : BitVec 4) (c : Bool)
  /-- ALU_F0_S1: function 0, select 1, template `Ra+Rb` (R121). -/
  | aluF0S1 (path : SelPath) (a b : BitVec 4) (c : Bool)
  /-- ALU_F0_S2: function 0, select 2, template `q` (R122). -/
  | aluF0S2 (path : SelPath) (a b : BitVec 4) (c : Bool)
  /-- ALU_F0_S3: function 0, select 3, template `Rb` (R123). -/
  | aluF0S3 (path : SelPath) (a b : BitVec 4) (c : Bool)
  /-- ALU_F0_S4: function 0, select 4, template `Ra` (R124). -/
  | aluF0S4 (path : SelPath) (a b : BitVec 4) (c : Bool)
  /-- ALU_F0_S5: function 0, select 5, template `d+Ra` (R125). -/
  | aluF0S5 (path : SelPath) (a b : BitVec 4) (c : Bool)
  /-- ALU_F0_S6: function 0, select 6, template `d+q` (R126). -/
  | aluF0S6 (path : SelPath) (a b : BitVec 4) (c : Bool)
  /-- ALU_F0_S7: function 0, select 7, template `d` (R127). -/
  | aluF0S7 (path : SelPath) (a b : BitVec 4) (c : Bool)
  /-- ALU_F1_S0: function 1, select 0, template `q-Ra` (R128). -/
  | aluF1S0 (path : SelPath) (a b : BitVec 4) (c : Bool)
  /-- ALU_F1_S1: function 1, select 1, template `Rb-Ra` (R129). -/
  | aluF1S1 (path : SelPath) (a b : BitVec 4) (c : Bool)
  /-- ALU_F1_S2: function 1, select 2, template `q` (R130). -/
  | aluF1S2 (path : SelPath) (a b : BitVec 4) (c : Bool)
  /-- ALU_F1_S3: function 1, select 3, template `Rb` (R131). -/
  | aluF1S3 (path : SelPath) (a b : BitVec 4) (c : Bool)
  /-- ALU_F1_S4: function 1, select 4, template `Ra` (R132). -/
  | aluF1S4 (path : SelPath) (a b : BitVec 4) (c : Bool)
  /-- ALU_F1_S5: function 1, select 5, template `Ra-d` (R133). -/
  | aluF1S5 (path : SelPath) (a b : BitVec 4) (c : Bool)
  /-- ALU_F1_S6: function 1, select 6, template `q-d` (R134). -/
  | aluF1S6 (path : SelPath) (a b : BitVec 4) (c : Bool)
  /-- ALU_F1_S7: function 1, select 7, template `-d` (R135). -/
  | aluF1S7 (path : SelPath) (a b : BitVec 4) (c : Bool)
  /-- ALU_F2_S0: function 2, select 0, template `Ra-q` (R136). -/
  | aluF2S0 (path : SelPath) (a b : BitVec 4) (c : Bool)
  /-- ALU_F2_S1: function 2, select 1, template `Ra-Rb` (R137). -/
  | aluF2S1 (path : SelPath) (a b : BitVec 4) (c : Bool)
  /-- ALU_F2_S2: function 2, select 2, template `-q` (R138). -/
  | aluF2S2 (path : SelPath) (a b : BitVec 4) (c : Bool)
  /-- ALU_F2_S3: function 2, select 3, template `-Rb` (R139). -/
  | aluF2S3 (path : SelPath) (a b : BitVec 4) (c : Bool)
  /-- ALU_F2_S4: function 2, select 4, template `-Ra` (R140). -/
  | aluF2S4 (path : SelPath) (a b : BitVec 4) (c : Bool)
  /-- ALU_F2_S5: function 2, select 5, template `d-Ra` (R141). -/
  | aluF2S5 (path : SelPath) (a b : BitVec 4) (c : Bool)
  /-- ALU_F2_S6: function 2, select 6, template `d-q` (R142). -/
  | aluF2S6 (path : SelPath) (a b : BitVec 4) (c : Bool)
  /-- ALU_F2_S7: function 2, select 7, template `d` (R143). -/
  | aluF2S7 (path : SelPath) (a b : BitVec 4) (c : Bool)
  /-- ALU_F3_S0: function 3, select 0, template `Ra|q` (R150). -/
  | aluF3S0 (path : SelPath) (a b : BitVec 4) (c : Bool)
  /-- ALU_F3_S1: function 3, select 1, template `Ra|Rb` (R151). -/
  | aluF3S1 (path : SelPath) (a b : BitVec 4) (c : Bool)
  /-- ALU_F3_S2: function 3, select 2, template `q` (R152). -/
  | aluF3S2 (path : SelPath) (a b : BitVec 4) (c : Bool)
  /-- ALU_F3_S3: function 3, select 3, template `Rb` (R153). -/
  | aluF3S3 (path : SelPath) (a b : BitVec 4) (c : Bool)
  /-- ALU_F3_S4: function 3, select 4, template `Ra` (R154). -/
  | aluF3S4 (path : SelPath) (a b : BitVec 4) (c : Bool)
  /-- ALU_F3_S5: function 3, select 5, template `d|Ra` (R155). -/
  | aluF3S5 (path : SelPath) (a b : BitVec 4) (c : Bool)
  /-- ALU_F3_S6: function 3, select 6, template `d|q` (R156). -/
  | aluF3S6 (path : SelPath) (a b : BitVec 4) (c : Bool)
  /-- ALU_F3_S7: function 3, select 7, template `d` (R157). -/
  | aluF3S7 (path : SelPath) (a b : BitVec 4) (c : Bool)
  /-- ALU_F4_S0: function 4, select 0, template `Ra&q` (R158). -/
  | aluF4S0 (path : SelPath) (a b : BitVec 4) (c : Bool)
  /-- ALU_F4_S1: function 4, select 1, template `Ra&Rb` (R159). -/
  | aluF4S1 (path : SelPath) (a b : BitVec 4) (c : Bool)
  /-- ALU_F4_S2: function 4, select 2, template `0` (R160). -/
  | aluF4S2 (path : SelPath) (a b : BitVec 4) (c : Bool)
  /-- ALU_F4_S3: function 4, select 3, template `0` (R161). -/
  | aluF4S3 (path : SelPath) (a b : BitVec 4) (c : Bool)
  /-- ALU_F4_S4: function 4, select 4, template `0` (R162). -/
  | aluF4S4 (path : SelPath) (a b : BitVec 4) (c : Bool)
  /-- ALU_F4_S5: function 4, select 5, template `d&Ra` (R163). -/
  | aluF4S5 (path : SelPath) (a b : BitVec 4) (c : Bool)
  /-- ALU_F4_S6: function 4, select 6, template `d&q` (R164). -/
  | aluF4S6 (path : SelPath) (a b : BitVec 4) (c : Bool)
  /-- ALU_F4_S7: function 4, select 7, template `0` (R165). -/
  | aluF4S7 (path : SelPath) (a b : BitVec 4) (c : Bool)
  /-- ALU_F5_S0: function 5, select 0, template `!Ra&q` (R166). -/
  | aluF5S0 (path : SelPath) (a b : BitVec 4) (c : Bool)
  /-- ALU_F5_S1: function 5, select 1, template `!Ra&Rb` (R167). -/
  | aluF5S1 (path : SelPath) (a b : BitVec 4) (c : Bool)
  /-- ALU_F5_S2: function 5, select 2, template `q` (R168). -/
  | aluF5S2 (path : SelPath) (a b : BitVec 4) (c : Bool)
  /-- ALU_F5_S3: function 5, select 3, template `Rb` (R169). -/
  | aluF5S3 (path : SelPath) (a b : BitVec 4) (c : Bool)
  /-- ALU_F5_S4: function 5, select 4, template `Ra` (R170). -/
  | aluF5S4 (path : SelPath) (a b : BitVec 4) (c : Bool)
  /-- ALU_F5_S5: function 5, select 5, template `!d&Ra` (R171). -/
  | aluF5S5 (path : SelPath) (a b : BitVec 4) (c : Bool)
  /-- ALU_F5_S6: function 5, select 6, template `!d&q` (R172). -/
  | aluF5S6 (path : SelPath) (a b : BitVec 4) (c : Bool)
  /-- ALU_F5_S7: function 5, select 7, template `0` (R173). -/
  | aluF5S7 (path : SelPath) (a b : BitVec 4) (c : Bool)
  /-- ALU_F6_S0: function 6, select 0, template `Ra^q` (R174). -/
  | aluF6S0 (path : SelPath) (a b : BitVec 4) (c : Bool)
  /-- ALU_F6_S1: function 6, select 1, template `Ra^Rb` (R175). -/
  | aluF6S1 (path : SelPath) (a b : BitVec 4) (c : Bool)
  /-- ALU_F6_S2: function 6, select 2, template `q` (R176). -/
  | aluF6S2 (path : SelPath) (a b : BitVec 4) (c : Bool)
  /-- ALU_F6_S3: function 6, select 3, template `Rb` (R177). -/
  | aluF6S3 (path : SelPath) (a b : BitVec 4) (c : Bool)
  /-- ALU_F6_S4: function 6, select 4, template `Ra` (R178). -/
  | aluF6S4 (path : SelPath) (a b : BitVec 4) (c : Bool)
  /-- ALU_F6_S5: function 6, select 5, template `d^Ra` (R179). -/
  | aluF6S5 (path : SelPath) (a b : BitVec 4) (c : Bool)
  /-- ALU_F6_S6: function 6, select 6, template `d^q` (R180). -/
  | aluF6S6 (path : SelPath) (a b : BitVec 4) (c : Bool)
  /-- ALU_F6_S7: function 6, select 7, template `d` (R181). -/
  | aluF6S7 (path : SelPath) (a b : BitVec 4) (c : Bool)
  /-- ALU_F7_S0: function 7, select 0, template `!Ra^q` (R182). -/
  | aluF7S0 (path : SelPath) (a b : BitVec 4) (c : Bool)
  /-- ALU_F7_S1: function 7, select 1, template `!Ra^Rb` (R183). -/
  | aluF7S1 (path : SelPath) (a b : BitVec 4) (c : Bool)
  /-- ALU_F7_S2: function 7, select 2, template `!q` (R184). -/
  | aluF7S2 (path : SelPath) (a b : BitVec 4) (c : Bool)
  /-- ALU_F7_S3: function 7, select 3, template `!Rb` (R185). -/
  | aluF7S3 (path : SelPath) (a b : BitVec 4) (c : Bool)
  /-- ALU_F7_S4: function 7, select 4, template `!Ra` (R186). -/
  | aluF7S4 (path : SelPath) (a b : BitVec 4) (c : Bool)
  /-- ALU_F7_S5: function 7, select 5, template `!d&Ra` (R187). -/
  | aluF7S5 (path : SelPath) (a b : BitVec 4) (c : Bool)
  /-- ALU_F7_S6: function 7, select 6, template `!d&q` (R188). -/
  | aluF7S6 (path : SelPath) (a b : BitVec 4) (c : Bool)
  /-- ALU_F7_S7: function 7, select 7, template `!d` (R189). -/
  | aluF7S7 (path : SelPath) (a b : BitVec 4) (c : Bool)
  /-- DST_0: destination code 0 (R203). -/
  | dst0 (showY : Bool) (b : BitVec 4)
  /-- DST_1: destination code 1 (R204). -/
  | dst1 (showY : Bool) (b : BitVec 4)
  /-- DST_2: destination code 2 (R205). -/
  | dst2 (showY : Bool) (b : BitVec 4)
  /-- DST_3: destination code 3 (R206). -/
  | dst3 (showY : Bool) (b : BitVec 4)
  /-- DST_4: destination code 4 (R207). -/
  | dst4 (showY : Bool) (b : BitVec 4)
  /-- DST_5: destination code 5 (R208). -/
  | dst5 (showY : Bool) (b : BitVec 4)
  /-- DST_6: destination code 6 (R209). -/
  | dst6 (showY : Bool) (b : BitVec 4)
  /-- DST_7: destination code 7 (R210). -/
  | dst7 (showY : Bool) (b : BitVec 4)
  /-- JMP_NONE: no jump, `J = 0` (R224). -/
  | jmpNone
  /-- JMP_UNCOND: unconditional jump, `J = 1`, `S = 0`; the target is present when `L = 1` (R225, R217). -/
  | jmpUncond (target : Option Address)
  /-- JMP_COND: conditional jump, `J = 1`, `S = 1` (R226, R217). -/
  | jmpCond (target : Option Address)
  /-- FLAG_H: `H = 1` (R87). -/
  | flagH
  /-- FLAG_L: `L = 1` (R88). -/
  | flagL
  /-- FLAG_S: `S = 1` (R89). -/
  | flagS
  /-- MUX: `M = 1`, the multiplexer branch (R91, R213). -/
  | mux (f sh sl : BitVec 3) (a b : BitVec 4) (c : Bool)
  /-- CARRY: `C = 1` (R92). -/
  | carry
  /-- ALT_SELECT, first pattern: `word[15] = 1`, `word[14] = 0`, so `sh = sl + 4`; `ss` is `word[13:12]` (R212, R96). -/
  | altSelectHigh (f : BitVec 3) (ss : BitVec 2) (a b : BitVec 4) (c : Bool)
  /-- ALT_SELECT, second pattern: `word[15] = 0`, `word[14] = 1`, so `sl = sh + 4` (R212, R96). -/
  | altSelectLow (f : BitVec 3) (ss : BitVec 2) (a b : BitVec 4) (c : Bool)
  /-- ADDRLOAD: the address-load word; its free bits are 23:16 (`jaddr`), 6 (the top bit of `dst`) and 2
  (`J`) (R59, R201). -/
  | addrload (jaddr : Address) (bit6 : Bool) (jBit : Bool)
  deriving DecidableEq, Repr

end Sys2Proof
end

