-- ==== Sys2Proof/Machine/State.lean ====
section
/-! DEFINITION. The state of the machine as plain data: the wires of the block while one word is
presented, and the edge around the block (Word Store, Listing Formatter). The block itself keeps nothing
from one word to the next (R10, R24): presenting a word clears every wire and drives it anew. -/

namespace Sys2Proof.Machine

/-! ### Expressions (R112, R115) -/

/-- An operand name of a ROM template: the document's `Ra`, `Rb`, `q`, `d`, `0` (R112). -/
inductive Opnd where
  | ra | rb | q | d | zero
  deriving DecidableEq, Repr

/-- An operand of an instantiated expression: a register by number, or one of the names (R115, R22). -/
inductive Symbol where
  | reg (n : BitVec 4)
  | q | d | zero
  deriving DecidableEq, Repr

/-- The mark before an operand: nothing, a leading `-`, a leading `!` (R112). -/
inductive Unary where
  | plain | neg | inv
  deriving DecidableEq, Repr

/-- The binary operators `+ - | & ^` (R112). They are symbols; nothing is computed (R118). -/
inductive BinOp where
  | add | sub | or | and | xor
  deriving DecidableEq, Repr

/-- An operand with its mark (R112). -/
structure Term (α : Type) where
  mark : Unary
  operand : α
  deriving DecidableEq, Repr

/-- One term, or two with an operator between them (R112). -/
inductive Body (α : Type) where
  | one (t : Term α)
  | two (left : Term α) (op : BinOp) (right : Term α)
  deriving DecidableEq, Repr

/-- The suffix family of a ROM row: the document's `pc`, `mc` and "no suffix" (R112 to R114, C7). -/
inductive Suffix where
  | sfxPc | sfxMc | sfxNone
  deriving DecidableEq, Repr

/-- A suffix resolved by the carry (R115). -/
inductive Adjust where
  | plus1 | minus1 | nothing
  deriving DecidableEq, Repr

/-- An entry of the ALU ROM (R112). -/
structure Template where
  body : Body Opnd
  suffix : Suffix
  deriving DecidableEq, Repr

/-- An instantiated expression, the result of one lookup (R110, R115). -/
structure Expr where
  body : Body Symbol
  adjust : Adjust
  deriving DecidableEq, Repr

/-! ### The structured outputs of the Instruction Assembler (R200) -/

/-- A destination a template names (R200, R202). -/
inductive DestName where
  | y | q | rb
  deriving DecidableEq, Repr

/-- The halving or doubling hint of a destination template (R202). -/
inductive Hint where
  | none | half | double
  deriving DecidableEq, Repr

/-- A destination template (R200, R202). -/
structure DestTemplate where
  names : List DestName
  hint : Hint
  deriving DecidableEq, Repr

/-- The selected destination template and the index `b` that its text names (R202 `prefix_text(dest, b)`). -/
structure DestPort where
  template : DestTemplate
  b : BitVec 4
  deriving DecidableEq, Repr

/-- The multiplexer branch: the lookup at `sh ^ 2` and, when the codes differ, the one at `sl ^ 2` (R213). -/
structure MuxBranch where
  first : Expr
  second : Option Expr
  deriving DecidableEq, Repr

/-- The jump of a line, with its target when the word holds one (R200, R217). -/
inductive JumpForm where
  | noJump
  | uncond (target : Option Address)
  | cond (target : Option Address)
  deriving DecidableEq, Repr

/-- The body of a line (R200). -/
inductive BodyForm where
  | addressLoad
  | transfer (dest : DestTemplate) (main : Expr) (alt : Option Expr) (mux : Option MuxBranch)
  deriving DecidableEq, Repr

/-- The structured output of the Assembler (R200). -/
structure Output where
  flagH : Bool
  flagS : Bool
  flagL : Bool
  jump : JumpForm
  body : BodyForm
  eos : Bool
  deriving DecidableEq, Repr

/-! ### The block -/

/-- The wires of the block. `word` is the input port, absent while no word is presented (D2); `fields` the
Field Decoder's outputs (R80); the others the Assembler's, absent while the row that drives them does not
act (R200). Log entry 2: these are wires, not latches. -/
structure Block where
  word : Option Word
  fields : Fields
  main : Option Expr
  alt : Option Expr
  mux : Option MuxBranch
  dest : Option DestPort
  addrLoad : Bool
  jump : JumpForm
  deriving DecidableEq, Repr

/-! ### The edge -/

/-- Where a run stands in the order of R262: the Word Store has yet to act; words are being listed; all 256
rows are listed (exit code 0, R243). -/
inductive Phase where
  | loading | listing | done
  deriving DecidableEq, Repr

/-- A source of the Word Store by name: nibble source 0 to 5, or the dispatch source (R32, R33). -/
inductive SourceId where
  | nibble (i : Fin 6)
  | dispatch
  deriving DecidableEq, Repr

/-- A source as the Word Store finds it: `none` cannot be opened, `some` holds these bytes (R241, R242). -/
abbrev Source := Option (List Byte)

/-- The seven sources (R32, R33). -/
structure Sources where
  n0 : Source
  n1 : Source
  n2 : Source
  n3 : Source
  n4 : Source
  n5 : Source
  dispatch : Source
  deriving DecidableEq, Repr

/-- The microcode word store: a 24-bit word for each word address (R31, R34), as a list of (address, word)
in one canonical form (`Memory.wf` in Ops.lean). The unit is the word: "There is no byte address" (R34). -/
abbrev Memory := List (Nat × Word)

/-- The dispatch table: at most one code for an address (R33), in canonical form. -/
abbrev DispatchTable := List (Nat × BitVec 5)

/-- One row of the listing: its six columns and whether a blank line follows (R41). -/
structure Row where
  label : Option (BitVec 5)
  addr : Address
  word : Word
  flagsCol : String
  jumpCol : String
  bodyCol : String
  blankAfter : Bool
  deriving DecidableEq, Repr

/-- The whole state: the block's wires, and the edge around the block (log entry 1). -/
structure State where
  block : Block
  phase : Phase
  sources : Sources
  store : Memory
  dispatch : DispatchTable
  addr : Address
  listing : List Row
  deriving DecidableEq, Repr

/-! ### How a step can stop -/

/-- The faults: the two boundary errors of the external Word Store (R241 to R244). The block raises nothing
(R240). A fault names the error and the failing source; the message's wording is not modelled (log entry 33). -/
inductive Fault where
  /-- Raised by the Word Store when "a required binary source cannot be opened" (R241). Safe: the spec
  ends the run there. -/
  | sourceOpenFailure (source : SourceId)
  /-- Raised by the Word Store when a source has "fewer bytes available than the fixed expected count"
  (R242). Safe: the spec ends the run there. -/
  | sourceReadFailure (source : SourceId)
  deriving DecidableEq, Repr

/-- The refusals. -/
inductive Refusal where
  /-- An instruction that has no meaning yet: raised by no arm of exec now. Safe: the machine stops. -/
  | notModelled (mnemonic : String)
  deriving DecidableEq, Repr

/-! ### Reset -/

/-- The wires of the block with no word presented (D2, log entry 6). -/
def Block.idle : Block :=
  { word := none, fields := Fields.zero, main := none, alt := none, mux := none, dest := none,
    addrLoad := false, jump := .noJump }

/-- No source placed (log entry 5). -/
def Sources.absent : Sources :=
  { n0 := none, n1 := none, n2 := none, n3 := none, n4 := none, n5 := none, dispatch := none }

/-- The machine before anything has happened. The block has no reset and no reset state (R25, R260); the edge
stands before the load of R262, with no source placed, no word built and no row listed (log entry 5). -/
def State.reset : State :=
  { block := Block.idle, phase := .loading, sources := Sources.absent, store := [], dispatch := [],
    addr := 0, listing := [] }

end Sys2Proof.Machine
end

