-- ==== Sys2Proof/Machine/Flags.lean ====
section
/-! DEFINITION. The flag computations: the Field Decoder's two derived booleans (R94, R95), the
carry-selected suffix (R113 to R115) and the flag letters (R215). -/

namespace Sys2Proof.Machine

/-- `eos = H or (J and not S)` (R94). -/
def eosOf (h j s : Bool) : Bool := h || (j && !s)

/-- `showY = H or (J and S)` (R95). -/
def showYOf (h j s : Bool) : Bool := h || (j && s)

/-- The suffix of a row resolved by the carry `c` (R113, R115). -/
def resolveSuffix : Suffix → Bool → Adjust
  | .sfxPc, c => if c then .plus1 else .nothing
  | .sfxMc, c => if c then .nothing else .minus1
  | .sfxNone, _ => .nothing

/-- The suffix family of a function code: `f = 0` post-increment, `f = 1, 2` post-decrement, the logic rows
none (R114). -/
def suffixFamily (f : BitVec 3) : Suffix :=
  if f = 0 then .sfxPc else if f = 1 ∨ f = 2 then .sfxMc else .sfxNone

/-- The mark of one flag: its letter when set, one space when clear (R215, D14; log entry 15). -/
def flagMark (letter : String) (on : Bool) : String := if on then letter else " "

/-- The flag column: three characters in the order `H`, `S`, `L` (R215). -/
def flagLetters (h s l : Bool) : String := flagMark "H" h ++ flagMark "S" s ++ flagMark "L" l

end Sys2Proof.Machine
end

