-- ==== Sys2Proof/Machine/Operands.lean ====
section
/-! DEFINITION. Operands: the instantiation of a ROM template with the register indices and the carry
(R115), and the select codes a lookup can be given (R55). -/

namespace Sys2Proof.Machine

/-- `RA` becomes the register numbered `a`, `RB` the one numbered `b`; the other names stand (R115). -/
def operandSymbol (a b : BitVec 4) : Opnd → Symbol
  | .ra => .reg a
  | .rb => .reg b
  | .q => .q
  | .d => .d
  | .zero => .zero

/-- A term with its operand instantiated (R115). -/
def instantiateTerm (a b : BitVec 4) (t : Term Opnd) : Term Symbol :=
  { mark := t.mark, operand := operandSymbol a b t.operand }

/-- A template body with its operands instantiated (R115). -/
def instantiateBody (a b : BitVec 4) : Body Opnd → Body Symbol
  | .one t => .one (instantiateTerm a b t)
  | .two l op r => .two (instantiateTerm a b l) op (instantiateTerm a b r)

/-- Instantiation of a template: the register indices put in and the suffix resolved with `c` (R115). -/
def instantiate (t : Template) (a b : BitVec 4) (c : Bool) : Expr :=
  { body := instantiateBody a b t.body, adjust := resolveSuffix t.suffix c }

/-- The select code of the multiplexer branch: `s ^ 2`, bit 1 inverted (R55, R213). -/
def muxSelect (s : BitVec 3) : BitVec 3 := s ^^^ 2#3

/-- The jump target: `some(jaddr)` if `L = 1`, `none` if `L = 0` (R93, R217). -/
def jumpTarget (l : Bool) (jaddr : Address) : Option Address := if l then some jaddr else none

end Sys2Proof.Machine
end

