-- ==== Sys2Proof/Machine/Ops.lean ====
section
/-! DEFINITION. The shared operations: tables in canonical form and the word store over them (R31, R34), driving
one wire of the block, presenting a word, and ending a run with a boundary error (R244). -/

namespace Sys2Proof.Machine

open Sys2Proof

/-- The outcome of a meaning. -/
abbrev Result := Host.Outcome State Fault Refusal

/-! ### Tables by key in canonical form -/

/-- The value at a key. -/
def tableGet? {α : Type} : List (Nat × α) → Nat → Option α
  | [], _ => none
  | (b, v) :: rest, a => if a = b then some v else tableGet? rest a

/-- The table with the key set; keys stay strictly rising. -/
def tableSet {α : Type} (a : Nat) (v : α) : List (Nat × α) → List (Nat × α)
  | [] => [(a, v)]
  | (b, u) :: rest =>
      if a < b then (a, v) :: (b, u) :: rest
      else if a = b then (a, v) :: rest
      else (b, u) :: tableSet a v rest

/-- The table without the key. -/
def tableErase {α : Type} (a : Nat) : List (Nat × α) → List (Nat × α)
  | [] => []
  | (b, u) :: rest => if a = b then tableErase a rest else (b, u) :: tableErase a rest

/-- Keys strictly rising, so no key twice. -/
abbrev tableSorted {α : Type} (t : List (Nat × α)) : Prop := t.Pairwise (fun x y => x.1 < y.1)

/-! ### The word store -/

/-- The word at an address. An address that is not listed reads 0: after the load all 256 words are in the store
and the zero words are the unlisted ones (R31; log entry 7). -/
def Memory.read (m : Memory) (a : Address) : Word := (tableGet? m a.toNat).getD 0

/-- The store with one word replaced; writing 0 removes the entry, so equal stores are equal lists. Used by the
load from outside only: a word is "never mutated" once the store is built (R31, R39). -/
def Memory.write (m : Memory) (a : Address) (w : Word) : Memory :=
  if w = 0 then tableErase a.toNat m else tableSet a.toNat w m

/-- The canonical form: addresses strictly rising, all in the 256-word space (R36), no entry equal to what an
unlisted address reads as. -/
abbrev Memory.wf (m : Memory) : Prop := tableSorted m ∧ ∀ e ∈ m, e.1 < 256 ∧ e.2 ≠ 0

/-- The canonical form of the dispatch table: at most one entry for an address (R33). -/
abbrev DispatchTable.wf (t : DispatchTable) : Prop := tableSorted t ∧ ∀ e ∈ t, e.1 < 256

/-- The code that an address is labelled with, if a dispatch entry targets it (R33, R41). -/
def DispatchTable.label (t : DispatchTable) (a : Address) : Option (BitVec 5) := tableGet? t a.toNat

/-! ### Driving the block's wires -/

/-- Drive all the Field Decoder's outputs (R98). -/
def driveFields (x : Fields) (s : State) : State := { s with block := { s.block with fields := x } }

/-- Drive the `H` output (R87). -/
def driveH (v : Bool) (s : State) : State := driveFields { s.block.fields with H := v } s

/-- Drive the `L` output (R88). -/
def driveL (v : Bool) (s : State) : State := driveFields { s.block.fields with L := v } s

/-- Drive the `S` output (R89). -/
def driveS (v : Bool) (s : State) : State := driveFields { s.block.fields with S := v } s

/-- Drive the `J` output (R90). -/
def driveJ (v : Bool) (s : State) : State := driveFields { s.block.fields with J := v } s

/-- Drive the `M` output (R91). -/
def driveM (v : Bool) (s : State) : State := driveFields { s.block.fields with M := v } s

/-- Drive the `C` output (R92). -/
def driveC (v : Bool) (s : State) : State := driveFields { s.block.fields with C := v } s

/-- Drive the main lookup's expression (R211). -/
def driveMain (e : Expr) (s : State) : State := { s with block := { s.block with main := some e } }

/-- Drive the alternate's expression (R212). -/
def driveAlt (e : Expr) (s : State) : State := { s with block := { s.block with alt := some e } }

/-- Drive the lookup that a path names: `sh` is the main lookup, `sl` the alternate (R57, R211, R212). -/
def driveLookup (path : SelPath) (e : Expr) (s : State) : State :=
  match path with
  | .high => driveMain e s
  | .low => driveAlt e s

/-- Drive the multiplexer branch (R213). -/
def driveMux (m : MuxBranch) (s : State) : State := { s with block := { s.block with mux := some m } }

/-- Drive the selected destination template (R202). -/
def driveDest (d : DestPort) (s : State) : State := { s with block := { s.block with dest := some d } }

/-- Drive the address-load match (R201). -/
def driveAddrLoad (s : State) : State := { s with block := { s.block with addrLoad := true } }

/-- Drive the jump form (R216). -/
def driveJump (j : JumpForm) (s : State) : State := { s with block := { s.block with jump := j } }

/-- Present a word on the input port: every other wire is cleared, so that nothing of an earlier word is left
(R3, R10, R24). -/
def presentWord (w : Word) (s : State) : State := { s with block := { Block.idle with word := some w } }

/-! ### Ending a run -/

/-- A boundary error: "processing halts immediately", no listing, no retry (R244). It is the machine's only way
to stop; the block raises nothing (R240). DESIGN CHOICE: of the "descriptive message naming the failing source", whose
wording is not given (R244, N29), only the kind of error and the source are surfaced, as the `Fault` (log entry 33). -/
def boundaryError (f : Fault) : Result := .fault f

/-- The process exit code of a boundary error (R241, R242, R243). -/
def exitCode : Fault → Nat
  | .sourceOpenFailure _ => 2
  | .sourceReadFailure _ => 3

/-- The exit code of a run that has not faulted: 0 once all 256 rows are listed (R243). -/
def finishedExitCode (s : State) : Option Nat := if s.phase = .done then some 0 else none

end Sys2Proof.Machine
end

