-- ==== Sys2Proof/Machine/AddressLoad.lean ====
section
/-! DEFINITION. The address-load row ADDRLOAD (R201, R221, R265). -/

namespace Sys2Proof.Machine

open Sys2Proof

/-- ADDRLOAD: the body is the marker and nothing else (R201, R221). The address, bit 6 and `J` are free bits of
the word: they show in the Field Decoder's outputs and in the jump column, never in the body (R221, D10; log
entry 12). -/
def execAddrload (_jaddr : Address) (_bit6 _jBit : Bool) (s : State) : Result := .next (driveAddrLoad s)

end Sys2Proof.Machine
end

