-- ==== Sys2Proof/Machine/AluRom.lean ====
section
/-! DEFINITION. The ALU ROM: its 64 templates, one definition each (R120 to R143, R150 to R189), the table
in index order `8*f + s` (R111, D3) and one lookup of it (R110). The templates are data, transcribed from
the entry rules; no pattern is used to make them (R117). -/

namespace Sys2Proof.Machine

/-! ### Row f = 0: add -/

/-- Entry (0, 0): `Ra+q`, suffix `sfx_pc` (R120). -/
def romF0S0 : Template := ⟨.two ⟨.plain, .ra⟩ .add ⟨.plain, .q⟩, .sfxPc⟩

/-- Entry (0, 1): `Ra+Rb`, suffix `sfx_pc` (R121). -/
def romF0S1 : Template := ⟨.two ⟨.plain, .ra⟩ .add ⟨.plain, .rb⟩, .sfxPc⟩

/-- Entry (0, 2): `q`, suffix `sfx_pc` (R122). The row's suffix applies to the single operand (R114, D7; log entry 13). -/
def romF0S2 : Template := ⟨.one ⟨.plain, .q⟩, .sfxPc⟩

/-- Entry (0, 3): `Rb`, suffix `sfx_pc` (R123). The row's suffix applies to the single operand (R114, D7; log entry 13). -/
def romF0S3 : Template := ⟨.one ⟨.plain, .rb⟩, .sfxPc⟩

/-- Entry (0, 4): `Ra`, suffix `sfx_pc` (R124). The row's suffix applies to the single operand (R114, D7; log entry 13). -/
def romF0S4 : Template := ⟨.one ⟨.plain, .ra⟩, .sfxPc⟩

/-- Entry (0, 5): `d+Ra`, suffix `sfx_pc` (R125). -/
def romF0S5 : Template := ⟨.two ⟨.plain, .d⟩ .add ⟨.plain, .ra⟩, .sfxPc⟩

/-- Entry (0, 6): `d+q`, suffix `sfx_pc` (R126). -/
def romF0S6 : Template := ⟨.two ⟨.plain, .d⟩ .add ⟨.plain, .q⟩, .sfxPc⟩

/-- Entry (0, 7): `d`, suffix `sfx_pc` (R127). The row's suffix applies to the single operand (R114, D7; log entry 13). -/
def romF0S7 : Template := ⟨.one ⟨.plain, .d⟩, .sfxPc⟩

/-! ### Row f = 1: sub-var1: second operand minus first -/

/-- Entry (1, 0): `q-Ra`, suffix `sfx_mc` (R128). -/
def romF1S0 : Template := ⟨.two ⟨.plain, .q⟩ .sub ⟨.plain, .ra⟩, .sfxMc⟩

/-- Entry (1, 1): `Rb-Ra`, suffix `sfx_mc` (R129). -/
def romF1S1 : Template := ⟨.two ⟨.plain, .rb⟩ .sub ⟨.plain, .ra⟩, .sfxMc⟩

/-- Entry (1, 2): `q`, suffix `sfx_mc` (R130). The row's suffix applies to the single operand (R114, D7; log entry 13). -/
def romF1S2 : Template := ⟨.one ⟨.plain, .q⟩, .sfxMc⟩

/-- Entry (1, 3): `Rb`, suffix `sfx_mc` (R131). The row's suffix applies to the single operand (R114, D7; log entry 13). -/
def romF1S3 : Template := ⟨.one ⟨.plain, .rb⟩, .sfxMc⟩

/-- Entry (1, 4): `Ra`, suffix `sfx_mc` (R132). The row's suffix applies to the single operand (R114, D7; log entry 13). -/
def romF1S4 : Template := ⟨.one ⟨.plain, .ra⟩, .sfxMc⟩

/-- Entry (1, 5): `Ra-d`, suffix `sfx_mc` (R133). -/
def romF1S5 : Template := ⟨.two ⟨.plain, .ra⟩ .sub ⟨.plain, .d⟩, .sfxMc⟩

/-- Entry (1, 6): `q-d`, suffix `sfx_mc` (R134). -/
def romF1S6 : Template := ⟨.two ⟨.plain, .q⟩ .sub ⟨.plain, .d⟩, .sfxMc⟩

/-- Entry (1, 7): `-d`, suffix `sfx_mc` (R135). The row's suffix applies to the single operand (R114, D7; log entry 13). -/
def romF1S7 : Template := ⟨.one ⟨.neg, .d⟩, .sfxMc⟩

/-! ### Row f = 2: sub-var2: first operand minus second -/

/-- Entry (2, 0): `Ra-q`, suffix `sfx_mc` (R136). -/
def romF2S0 : Template := ⟨.two ⟨.plain, .ra⟩ .sub ⟨.plain, .q⟩, .sfxMc⟩

/-- Entry (2, 1): `Ra-Rb`, suffix `sfx_mc` (R137). -/
def romF2S1 : Template := ⟨.two ⟨.plain, .ra⟩ .sub ⟨.plain, .rb⟩, .sfxMc⟩

/-- Entry (2, 2): `-q`, suffix `sfx_mc` (R138). The row's suffix applies to the single operand (R114, D7; log entry 13). -/
def romF2S2 : Template := ⟨.one ⟨.neg, .q⟩, .sfxMc⟩

/-- Entry (2, 3): `-Rb`, suffix `sfx_mc` (R139). The row's suffix applies to the single operand (R114, D7; log entry 13). -/
def romF2S3 : Template := ⟨.one ⟨.neg, .rb⟩, .sfxMc⟩

/-- Entry (2, 4): `-Ra`, suffix `sfx_mc` (R140). The row's suffix applies to the single operand (R114, D7; log entry 13). -/
def romF2S4 : Template := ⟨.one ⟨.neg, .ra⟩, .sfxMc⟩

/-- Entry (2, 5): `d-Ra`, suffix `sfx_mc` (R141). -/
def romF2S5 : Template := ⟨.two ⟨.plain, .d⟩ .sub ⟨.plain, .ra⟩, .sfxMc⟩

/-- Entry (2, 6): `d-q`, suffix `sfx_mc` (R142). -/
def romF2S6 : Template := ⟨.two ⟨.plain, .d⟩ .sub ⟨.plain, .q⟩, .sfxMc⟩

/-- Entry (2, 7): `d`, suffix `sfx_mc` (R143). The row's suffix applies to the single operand (R114, D7; log entry 13). -/
def romF2S7 : Template := ⟨.one ⟨.plain, .d⟩, .sfxMc⟩

/-! ### Row f = 3: logic OR -/

/-- Entry (3, 0): `Ra|q`, no suffix (R150). -/
def romF3S0 : Template := ⟨.two ⟨.plain, .ra⟩ .or ⟨.plain, .q⟩, .sfxNone⟩

/-- Entry (3, 1): `Ra|Rb`, no suffix (R151). -/
def romF3S1 : Template := ⟨.two ⟨.plain, .ra⟩ .or ⟨.plain, .rb⟩, .sfxNone⟩

/-- Entry (3, 2): `q`, no suffix (R152). -/
def romF3S2 : Template := ⟨.one ⟨.plain, .q⟩, .sfxNone⟩

/-- Entry (3, 3): `Rb`, no suffix (R153). -/
def romF3S3 : Template := ⟨.one ⟨.plain, .rb⟩, .sfxNone⟩

/-- Entry (3, 4): `Ra`, no suffix (R154). -/
def romF3S4 : Template := ⟨.one ⟨.plain, .ra⟩, .sfxNone⟩

/-- Entry (3, 5): `d|Ra`, no suffix (R155). -/
def romF3S5 : Template := ⟨.two ⟨.plain, .d⟩ .or ⟨.plain, .ra⟩, .sfxNone⟩

/-- Entry (3, 6): `d|q`, no suffix (R156). -/
def romF3S6 : Template := ⟨.two ⟨.plain, .d⟩ .or ⟨.plain, .q⟩, .sfxNone⟩

/-- Entry (3, 7): `d`, no suffix (R157). -/
def romF3S7 : Template := ⟨.one ⟨.plain, .d⟩, .sfxNone⟩

/-! ### Row f = 4: logic AND -/

/-- Entry (4, 0): `Ra&q`, no suffix (R158). -/
def romF4S0 : Template := ⟨.two ⟨.plain, .ra⟩ .and ⟨.plain, .q⟩, .sfxNone⟩

/-- Entry (4, 1): `Ra&Rb`, no suffix (R159). -/
def romF4S1 : Template := ⟨.two ⟨.plain, .ra⟩ .and ⟨.plain, .rb⟩, .sfxNone⟩

/-- Entry (4, 2): `0`, no suffix (R160). -/
def romF4S2 : Template := ⟨.one ⟨.plain, .zero⟩, .sfxNone⟩

/-- Entry (4, 3): `0`, no suffix (R161). -/
def romF4S3 : Template := ⟨.one ⟨.plain, .zero⟩, .sfxNone⟩

/-- Entry (4, 4): `0`, no suffix (R162). -/
def romF4S4 : Template := ⟨.one ⟨.plain, .zero⟩, .sfxNone⟩

/-- Entry (4, 5): `d&Ra`, no suffix (R163). -/
def romF4S5 : Template := ⟨.two ⟨.plain, .d⟩ .and ⟨.plain, .ra⟩, .sfxNone⟩

/-- Entry (4, 6): `d&q`, no suffix (R164). -/
def romF4S6 : Template := ⟨.two ⟨.plain, .d⟩ .and ⟨.plain, .q⟩, .sfxNone⟩

/-- Entry (4, 7): `0`, no suffix (R165). -/
def romF4S7 : Template := ⟨.one ⟨.plain, .zero⟩, .sfxNone⟩

/-! ### Row f = 5: AND with complement -/

/-- Entry (5, 0): `!Ra&q`, no suffix (R166). -/
def romF5S0 : Template := ⟨.two ⟨.inv, .ra⟩ .and ⟨.plain, .q⟩, .sfxNone⟩

/-- Entry (5, 1): `!Ra&Rb`, no suffix (R167). -/
def romF5S1 : Template := ⟨.two ⟨.inv, .ra⟩ .and ⟨.plain, .rb⟩, .sfxNone⟩

/-- Entry (5, 2): `q`, no suffix (R168). -/
def romF5S2 : Template := ⟨.one ⟨.plain, .q⟩, .sfxNone⟩

/-- Entry (5, 3): `Rb`, no suffix (R169). -/
def romF5S3 : Template := ⟨.one ⟨.plain, .rb⟩, .sfxNone⟩

/-- Entry (5, 4): `Ra`, no suffix (R170). -/
def romF5S4 : Template := ⟨.one ⟨.plain, .ra⟩, .sfxNone⟩

/-- Entry (5, 5): `!d&Ra`, no suffix (R171). -/
def romF5S5 : Template := ⟨.two ⟨.inv, .d⟩ .and ⟨.plain, .ra⟩, .sfxNone⟩

/-- Entry (5, 6): `!d&q`, no suffix (R172). -/
def romF5S6 : Template := ⟨.two ⟨.inv, .d⟩ .and ⟨.plain, .q⟩, .sfxNone⟩

/-- Entry (5, 7): `0`, no suffix (R173). -/
def romF5S7 : Template := ⟨.one ⟨.plain, .zero⟩, .sfxNone⟩

/-! ### Row f = 6: logic XOR -/

/-- Entry (6, 0): `Ra^q`, no suffix (R174). -/
def romF6S0 : Template := ⟨.two ⟨.plain, .ra⟩ .xor ⟨.plain, .q⟩, .sfxNone⟩

/-- Entry (6, 1): `Ra^Rb`, no suffix (R175). -/
def romF6S1 : Template := ⟨.two ⟨.plain, .ra⟩ .xor ⟨.plain, .rb⟩, .sfxNone⟩

/-- Entry (6, 2): `q`, no suffix (R176). -/
def romF6S2 : Template := ⟨.one ⟨.plain, .q⟩, .sfxNone⟩

/-- Entry (6, 3): `Rb`, no suffix (R177). -/
def romF6S3 : Template := ⟨.one ⟨.plain, .rb⟩, .sfxNone⟩

/-- Entry (6, 4): `Ra`, no suffix (R178). -/
def romF6S4 : Template := ⟨.one ⟨.plain, .ra⟩, .sfxNone⟩

/-- Entry (6, 5): `d^Ra`, no suffix (R179). -/
def romF6S5 : Template := ⟨.two ⟨.plain, .d⟩ .xor ⟨.plain, .ra⟩, .sfxNone⟩

/-- Entry (6, 6): `d^q`, no suffix (R180). -/
def romF6S6 : Template := ⟨.two ⟨.plain, .d⟩ .xor ⟨.plain, .q⟩, .sfxNone⟩

/-- Entry (6, 7): `d`, no suffix (R181). -/
def romF6S7 : Template := ⟨.one ⟨.plain, .d⟩, .sfxNone⟩

/-! ### Row f = 7: XOR with complement -/

/-- Entry (7, 0): `!Ra^q`, no suffix (R182). -/
def romF7S0 : Template := ⟨.two ⟨.inv, .ra⟩ .xor ⟨.plain, .q⟩, .sfxNone⟩

/-- Entry (7, 1): `!Ra^Rb`, no suffix (R183). -/
def romF7S1 : Template := ⟨.two ⟨.inv, .ra⟩ .xor ⟨.plain, .rb⟩, .sfxNone⟩

/-- Entry (7, 2): `!q`, no suffix (R184). -/
def romF7S2 : Template := ⟨.one ⟨.inv, .q⟩, .sfxNone⟩

/-- Entry (7, 3): `!Rb`, no suffix (R185). -/
def romF7S3 : Template := ⟨.one ⟨.inv, .rb⟩, .sfxNone⟩

/-- Entry (7, 4): `!Ra`, no suffix (R186). -/
def romF7S4 : Template := ⟨.one ⟨.inv, .ra⟩, .sfxNone⟩

/-- Entry (7, 5): `!d&Ra`, no suffix (R187). The operator is `&`, not the row's `^`: kept on purpose (C6; log entry 18). -/
def romF7S5 : Template := ⟨.two ⟨.inv, .d⟩ .and ⟨.plain, .ra⟩, .sfxNone⟩

/-- Entry (7, 6): `!d&q`, no suffix (R188). The operator is `&`, not the row's `^`: kept on purpose (C6; log entry 18). -/
def romF7S6 : Template := ⟨.two ⟨.inv, .d⟩ .and ⟨.plain, .q⟩, .sfxNone⟩

/-- Entry (7, 7): `!d`, no suffix (R189). -/
def romF7S7 : Template := ⟨.one ⟨.inv, .d⟩, .sfxNone⟩

/-! ### The table and its lookup -/

/-- Row f = 0 of the ALU ROM, select codes 0 to 7. -/
def romRow0 : List Template :=
  [romF0S0, romF0S1, romF0S2, romF0S3, romF0S4, romF0S5, romF0S6, romF0S7]

/-- Row f = 1 of the ALU ROM, select codes 0 to 7. -/
def romRow1 : List Template :=
  [romF1S0, romF1S1, romF1S2, romF1S3, romF1S4, romF1S5, romF1S6, romF1S7]

/-- Row f = 2 of the ALU ROM, select codes 0 to 7. -/
def romRow2 : List Template :=
  [romF2S0, romF2S1, romF2S2, romF2S3, romF2S4, romF2S5, romF2S6, romF2S7]

/-- Row f = 3 of the ALU ROM, select codes 0 to 7. -/
def romRow3 : List Template :=
  [romF3S0, romF3S1, romF3S2, romF3S3, romF3S4, romF3S5, romF3S6, romF3S7]

/-- Row f = 4 of the ALU ROM, select codes 0 to 7. -/
def romRow4 : List Template :=
  [romF4S0, romF4S1, romF4S2, romF4S3, romF4S4, romF4S5, romF4S6, romF4S7]

/-- Row f = 5 of the ALU ROM, select codes 0 to 7. -/
def romRow5 : List Template :=
  [romF5S0, romF5S1, romF5S2, romF5S3, romF5S4, romF5S5, romF5S6, romF5S7]

/-- Row f = 6 of the ALU ROM, select codes 0 to 7. -/
def romRow6 : List Template :=
  [romF6S0, romF6S1, romF6S2, romF6S3, romF6S4, romF6S5, romF6S6, romF6S7]

/-- Row f = 7 of the ALU ROM, select codes 0 to 7. -/
def romRow7 : List Template :=
  [romF7S0, romF7S1, romF7S2, romF7S3, romF7S4, romF7S5, romF7S6, romF7S7]

/-- The ALU ROM: 64 entries in the order of `idx = 8*f + s` (R11, R111). -/
def romTable : List Template :=
  romRow0 ++ romRow1 ++ romRow2 ++ romRow3 ++ romRow4 ++ romRow5 ++ romRow6 ++ romRow7

/-- The ROM index of a pair: `idx = {f, s} = 8*f + s` (R111). -/
def romIndex (f s : BitVec 3) : Nat := 8 * f.toNat + s.toNat

/-- `ROM[idx]`; every index below 64 is in the table, so the default is never read (R11, R60). -/
def rom (f s : BitVec 3) : Template := romTable.getD (romIndex f s) romF0S0

/-- One lookup, `render(f, s, a, b, c)`: the entry of the pair, instantiated (R110, R115). -/
def render (f s : BitVec 3) (a b : BitVec 4) (c : Bool) : Expr := instantiate (rom f s) a b c

end Sys2Proof.Machine
end

