-- ==== Sys2Proof/Machine/AluArith.lean ====
section
/-! DEFINITION. The 24 ALU rows of the arithmetic functions f = 0, 1, 2 (R120 to R143). Each drives the lookup that its path names with its
ROM entry, instantiated with `a`, `b` and the carry `c` (R57, R115, R211, R212). No flag is written and nothing is
raised (R240). -/

namespace Sys2Proof.Machine

/-- ALU_F0_S0: `Ra+q` (R120). -/
def execAluF0S0 (path : SelPath) (a b : BitVec 4) (c : Bool) (s : State) : Result :=
  .next (driveLookup path (instantiate romF0S0 a b c) s)

/-- ALU_F0_S1: `Ra+Rb` (R121). -/
def execAluF0S1 (path : SelPath) (a b : BitVec 4) (c : Bool) (s : State) : Result :=
  .next (driveLookup path (instantiate romF0S1 a b c) s)

/-- ALU_F0_S2: `q` (R122). -/
def execAluF0S2 (path : SelPath) (a b : BitVec 4) (c : Bool) (s : State) : Result :=
  .next (driveLookup path (instantiate romF0S2 a b c) s)

/-- ALU_F0_S3: `Rb` (R123). -/
def execAluF0S3 (path : SelPath) (a b : BitVec 4) (c : Bool) (s : State) : Result :=
  .next (driveLookup path (instantiate romF0S3 a b c) s)

/-- ALU_F0_S4: `Ra` (R124). -/
def execAluF0S4 (path : SelPath) (a b : BitVec 4) (c : Bool) (s : State) : Result :=
  .next (driveLookup path (instantiate romF0S4 a b c) s)

/-- ALU_F0_S5: `d+Ra` (R125). -/
def execAluF0S5 (path : SelPath) (a b : BitVec 4) (c : Bool) (s : State) : Result :=
  .next (driveLookup path (instantiate romF0S5 a b c) s)

/-- ALU_F0_S6: `d+q` (R126). -/
def execAluF0S6 (path : SelPath) (a b : BitVec 4) (c : Bool) (s : State) : Result :=
  .next (driveLookup path (instantiate romF0S6 a b c) s)

/-- ALU_F0_S7: `d` (R127). -/
def execAluF0S7 (path : SelPath) (a b : BitVec 4) (c : Bool) (s : State) : Result :=
  .next (driveLookup path (instantiate romF0S7 a b c) s)

/-- ALU_F1_S0: `q-Ra` (R128). -/
def execAluF1S0 (path : SelPath) (a b : BitVec 4) (c : Bool) (s : State) : Result :=
  .next (driveLookup path (instantiate romF1S0 a b c) s)

/-- ALU_F1_S1: `Rb-Ra` (R129). -/
def execAluF1S1 (path : SelPath) (a b : BitVec 4) (c : Bool) (s : State) : Result :=
  .next (driveLookup path (instantiate romF1S1 a b c) s)

/-- ALU_F1_S2: `q` (R130). -/
def execAluF1S2 (path : SelPath) (a b : BitVec 4) (c : Bool) (s : State) : Result :=
  .next (driveLookup path (instantiate romF1S2 a b c) s)

/-- ALU_F1_S3: `Rb` (R131). -/
def execAluF1S3 (path : SelPath) (a b : BitVec 4) (c : Bool) (s : State) : Result :=
  .next (driveLookup path (instantiate romF1S3 a b c) s)

/-- ALU_F1_S4: `Ra` (R132). -/
def execAluF1S4 (path : SelPath) (a b : BitVec 4) (c : Bool) (s : State) : Result :=
  .next (driveLookup path (instantiate romF1S4 a b c) s)

/-- ALU_F1_S5: `Ra-d` (R133). -/
def execAluF1S5 (path : SelPath) (a b : BitVec 4) (c : Bool) (s : State) : Result :=
  .next (driveLookup path (instantiate romF1S5 a b c) s)

/-- ALU_F1_S6: `q-d` (R134). -/
def execAluF1S6 (path : SelPath) (a b : BitVec 4) (c : Bool) (s : State) : Result :=
  .next (driveLookup path (instantiate romF1S6 a b c) s)

/-- ALU_F1_S7: `-d` (R135). -/
def execAluF1S7 (path : SelPath) (a b : BitVec 4) (c : Bool) (s : State) : Result :=
  .next (driveLookup path (instantiate romF1S7 a b c) s)

/-- ALU_F2_S0: `Ra-q` (R136). -/
def execAluF2S0 (path : SelPath) (a b : BitVec 4) (c : Bool) (s : State) : Result :=
  .next (driveLookup path (instantiate romF2S0 a b c) s)

/-- ALU_F2_S1: `Ra-Rb` (R137). -/
def execAluF2S1 (path : SelPath) (a b : BitVec 4) (c : Bool) (s : State) : Result :=
  .next (driveLookup path (instantiate romF2S1 a b c) s)

/-- ALU_F2_S2: `-q` (R138). -/
def execAluF2S2 (path : SelPath) (a b : BitVec 4) (c : Bool) (s : State) : Result :=
  .next (driveLookup path (instantiate romF2S2 a b c) s)

/-- ALU_F2_S3: `-Rb` (R139). -/
def execAluF2S3 (path : SelPath) (a b : BitVec 4) (c : Bool) (s : State) : Result :=
  .next (driveLookup path (instantiate romF2S3 a b c) s)

/-- ALU_F2_S4: `-Ra` (R140). -/
def execAluF2S4 (path : SelPath) (a b : BitVec 4) (c : Bool) (s : State) : Result :=
  .next (driveLookup path (instantiate romF2S4 a b c) s)

/-- ALU_F2_S5: `d-Ra` (R141). -/
def execAluF2S5 (path : SelPath) (a b : BitVec 4) (c : Bool) (s : State) : Result :=
  .next (driveLookup path (instantiate romF2S5 a b c) s)

/-- ALU_F2_S6: `d-q` (R142). -/
def execAluF2S6 (path : SelPath) (a b : BitVec 4) (c : Bool) (s : State) : Result :=
  .next (driveLookup path (instantiate romF2S6 a b c) s)

/-- ALU_F2_S7: `d` (R143). -/
def execAluF2S7 (path : SelPath) (a b : BitVec 4) (c : Bool) (s : State) : Result :=
  .next (driveLookup path (instantiate romF2S7 a b c) s)

end Sys2Proof.Machine
end

