-- ==== Sys2Proof/Machine/AluLogic.lean ====
section
/-! DEFINITION. The 40 ALU rows of the logic functions f = 3 to 7 (R150 to R189). Each drives the lookup that its path names with its
ROM entry, instantiated with `a`, `b` and the carry `c` (R57, R115, R211, R212). No flag is written and nothing is
raised (R240). -/

namespace Sys2Proof.Machine

/-- ALU_F3_S0: `Ra|q` (R150). -/
def execAluF3S0 (path : SelPath) (a b : BitVec 4) (c : Bool) (s : State) : Result :=
  .next (driveLookup path (instantiate romF3S0 a b c) s)

/-- ALU_F3_S1: `Ra|Rb` (R151). -/
def execAluF3S1 (path : SelPath) (a b : BitVec 4) (c : Bool) (s : State) : Result :=
  .next (driveLookup path (instantiate romF3S1 a b c) s)

/-- ALU_F3_S2: `q` (R152). -/
def execAluF3S2 (path : SelPath) (a b : BitVec 4) (c : Bool) (s : State) : Result :=
  .next (driveLookup path (instantiate romF3S2 a b c) s)

/-- ALU_F3_S3: `Rb` (R153). -/
def execAluF3S3 (path : SelPath) (a b : BitVec 4) (c : Bool) (s : State) : Result :=
  .next (driveLookup path (instantiate romF3S3 a b c) s)

/-- ALU_F3_S4: `Ra` (R154). -/
def execAluF3S4 (path : SelPath) (a b : BitVec 4) (c : Bool) (s : State) : Result :=
  .next (driveLookup path (instantiate romF3S4 a b c) s)

/-- ALU_F3_S5: `d|Ra` (R155). -/
def execAluF3S5 (path : SelPath) (a b : BitVec 4) (c : Bool) (s : State) : Result :=
  .next (driveLookup path (instantiate romF3S5 a b c) s)

/-- ALU_F3_S6: `d|q` (R156). -/
def execAluF3S6 (path : SelPath) (a b : BitVec 4) (c : Bool) (s : State) : Result :=
  .next (driveLookup path (instantiate romF3S6 a b c) s)

/-- ALU_F3_S7: `d` (R157). -/
def execAluF3S7 (path : SelPath) (a b : BitVec 4) (c : Bool) (s : State) : Result :=
  .next (driveLookup path (instantiate romF3S7 a b c) s)

/-- ALU_F4_S0: `Ra&q` (R158). -/
def execAluF4S0 (path : SelPath) (a b : BitVec 4) (c : Bool) (s : State) : Result :=
  .next (driveLookup path (instantiate romF4S0 a b c) s)

/-- ALU_F4_S1: `Ra&Rb` (R159). -/
def execAluF4S1 (path : SelPath) (a b : BitVec 4) (c : Bool) (s : State) : Result :=
  .next (driveLookup path (instantiate romF4S1 a b c) s)

/-- ALU_F4_S2: `0` (R160). -/
def execAluF4S2 (path : SelPath) (a b : BitVec 4) (c : Bool) (s : State) : Result :=
  .next (driveLookup path (instantiate romF4S2 a b c) s)

/-- ALU_F4_S3: `0` (R161). -/
def execAluF4S3 (path : SelPath) (a b : BitVec 4) (c : Bool) (s : State) : Result :=
  .next (driveLookup path (instantiate romF4S3 a b c) s)

/-- ALU_F4_S4: `0` (R162). -/
def execAluF4S4 (path : SelPath) (a b : BitVec 4) (c : Bool) (s : State) : Result :=
  .next (driveLookup path (instantiate romF4S4 a b c) s)

/-- ALU_F4_S5: `d&Ra` (R163). -/
def execAluF4S5 (path : SelPath) (a b : BitVec 4) (c : Bool) (s : State) : Result :=
  .next (driveLookup path (instantiate romF4S5 a b c) s)

/-- ALU_F4_S6: `d&q` (R164). -/
def execAluF4S6 (path : SelPath) (a b : BitVec 4) (c : Bool) (s : State) : Result :=
  .next (driveLookup path (instantiate romF4S6 a b c) s)

/-- ALU_F4_S7: `0` (R165). -/
def execAluF4S7 (path : SelPath) (a b : BitVec 4) (c : Bool) (s : State) : Result :=
  .next (driveLookup path (instantiate romF4S7 a b c) s)

/-- ALU_F5_S0: `!Ra&q` (R166). -/
def execAluF5S0 (path : SelPath) (a b : BitVec 4) (c : Bool) (s : State) : Result :=
  .next (driveLookup path (instantiate romF5S0 a b c) s)

/-- ALU_F5_S1: `!Ra&Rb` (R167). -/
def execAluF5S1 (path : SelPath) (a b : BitVec 4) (c : Bool) (s : State) : Result :=
  .next (driveLookup path (instantiate romF5S1 a b c) s)

/-- ALU_F5_S2: `q` (R168). -/
def execAluF5S2 (path : SelPath) (a b : BitVec 4) (c : Bool) (s : State) : Result :=
  .next (driveLookup path (instantiate romF5S2 a b c) s)

/-- ALU_F5_S3: `Rb` (R169). -/
def execAluF5S3 (path : SelPath) (a b : BitVec 4) (c : Bool) (s : State) : Result :=
  .next (driveLookup path (instantiate romF5S3 a b c) s)

/-- ALU_F5_S4: `Ra` (R170). -/
def execAluF5S4 (path : SelPath) (a b : BitVec 4) (c : Bool) (s : State) : Result :=
  .next (driveLookup path (instantiate romF5S4 a b c) s)

/-- ALU_F5_S5: `!d&Ra` (R171). -/
def execAluF5S5 (path : SelPath) (a b : BitVec 4) (c : Bool) (s : State) : Result :=
  .next (driveLookup path (instantiate romF5S5 a b c) s)

/-- ALU_F5_S6: `!d&q` (R172). -/
def execAluF5S6 (path : SelPath) (a b : BitVec 4) (c : Bool) (s : State) : Result :=
  .next (driveLookup path (instantiate romF5S6 a b c) s)

/-- ALU_F5_S7: `0` (R173). -/
def execAluF5S7 (path : SelPath) (a b : BitVec 4) (c : Bool) (s : State) : Result :=
  .next (driveLookup path (instantiate romF5S7 a b c) s)

/-- ALU_F6_S0: `Ra^q` (R174). -/
def execAluF6S0 (path : SelPath) (a b : BitVec 4) (c : Bool) (s : State) : Result :=
  .next (driveLookup path (instantiate romF6S0 a b c) s)

/-- ALU_F6_S1: `Ra^Rb` (R175). -/
def execAluF6S1 (path : SelPath) (a b : BitVec 4) (c : Bool) (s : State) : Result :=
  .next (driveLookup path (instantiate romF6S1 a b c) s)

/-- ALU_F6_S2: `q` (R176). -/
def execAluF6S2 (path : SelPath) (a b : BitVec 4) (c : Bool) (s : State) : Result :=
  .next (driveLookup path (instantiate romF6S2 a b c) s)

/-- ALU_F6_S3: `Rb` (R177). -/
def execAluF6S3 (path : SelPath) (a b : BitVec 4) (c : Bool) (s : State) : Result :=
  .next (driveLookup path (instantiate romF6S3 a b c) s)

/-- ALU_F6_S4: `Ra` (R178). -/
def execAluF6S4 (path : SelPath) (a b : BitVec 4) (c : Bool) (s : State) : Result :=
  .next (driveLookup path (instantiate romF6S4 a b c) s)

/-- ALU_F6_S5: `d^Ra` (R179). -/
def execAluF6S5 (path : SelPath) (a b : BitVec 4) (c : Bool) (s : State) : Result :=
  .next (driveLookup path (instantiate romF6S5 a b c) s)

/-- ALU_F6_S6: `d^q` (R180). -/
def execAluF6S6 (path : SelPath) (a b : BitVec 4) (c : Bool) (s : State) : Result :=
  .next (driveLookup path (instantiate romF6S6 a b c) s)

/-- ALU_F6_S7: `d` (R181). -/
def execAluF6S7 (path : SelPath) (a b : BitVec 4) (c : Bool) (s : State) : Result :=
  .next (driveLookup path (instantiate romF6S7 a b c) s)

/-- ALU_F7_S0: `!Ra^q` (R182). -/
def execAluF7S0 (path : SelPath) (a b : BitVec 4) (c : Bool) (s : State) : Result :=
  .next (driveLookup path (instantiate romF7S0 a b c) s)

/-- ALU_F7_S1: `!Ra^Rb` (R183). -/
def execAluF7S1 (path : SelPath) (a b : BitVec 4) (c : Bool) (s : State) : Result :=
  .next (driveLookup path (instantiate romF7S1 a b c) s)

/-- ALU_F7_S2: `!q` (R184). -/
def execAluF7S2 (path : SelPath) (a b : BitVec 4) (c : Bool) (s : State) : Result :=
  .next (driveLookup path (instantiate romF7S2 a b c) s)

/-- ALU_F7_S3: `!Rb` (R185). -/
def execAluF7S3 (path : SelPath) (a b : BitVec 4) (c : Bool) (s : State) : Result :=
  .next (driveLookup path (instantiate romF7S3 a b c) s)

/-- ALU_F7_S4: `!Ra` (R186). -/
def execAluF7S4 (path : SelPath) (a b : BitVec 4) (c : Bool) (s : State) : Result :=
  .next (driveLookup path (instantiate romF7S4 a b c) s)

/-- ALU_F7_S5: `!d&Ra` (R187). -/
def execAluF7S5 (path : SelPath) (a b : BitVec 4) (c : Bool) (s : State) : Result :=
  .next (driveLookup path (instantiate romF7S5 a b c) s)

/-- ALU_F7_S6: `!d&q` (R188). -/
def execAluF7S6 (path : SelPath) (a b : BitVec 4) (c : Bool) (s : State) : Result :=
  .next (driveLookup path (instantiate romF7S6 a b c) s)

/-- ALU_F7_S7: `!d` (R189). -/
def execAluF7S7 (path : SelPath) (a b : BitVec 4) (c : Bool) (s : State) : Result :=
  .next (driveLookup path (instantiate romF7S7 a b c) s)

end Sys2Proof.Machine
end

