-- ==== Sys2Proof/Machine/Destination.lean ====
section
/-! DEFINITION. The destination rows DST_0 to DST_7 and the destination table (R202 to R210). The source describes
the 16 templates and lists none; the table is the spec's default `DEST_TABLE` (D12, N4; log entry 10). -/

namespace Sys2Proof.Machine

/-- `y` is named exactly when `showY = 1` (R202, D28; log entry 25). -/
def yName (showY : Bool) : List DestName := if showY then [.y] else []

/-- The templates of destination code 0 (R203). -/
def destTemplate0 (showY : Bool) : DestTemplate := ⟨yName showY ++ [.q], .none⟩

/-- The templates of destination code 1 (R204). -/
def destTemplate1 (showY : Bool) : DestTemplate := ⟨yName showY ++ [], .none⟩

/-- The templates of destination code 2 (R205). -/
def destTemplate2 (showY : Bool) : DestTemplate := ⟨yName showY ++ [.rb], .none⟩

/-- The templates of destination code 3 (R206). -/
def destTemplate3 (showY : Bool) : DestTemplate := ⟨yName showY ++ [.rb], .none⟩

/-- The templates of destination code 4 (R207). -/
def destTemplate4 (showY : Bool) : DestTemplate := ⟨yName showY ++ [.q, .rb], .half⟩

/-- The templates of destination code 5 (R208). -/
def destTemplate5 (showY : Bool) : DestTemplate := ⟨yName showY ++ [.rb], .half⟩

/-- The templates of destination code 6 (R209). -/
def destTemplate6 (showY : Bool) : DestTemplate := ⟨yName showY ++ [.q, .rb], .double⟩

/-- The templates of destination code 7 (R210). -/
def destTemplate7 (showY : Bool) : DestTemplate := ⟨yName showY ++ [.rb], .double⟩

/-- `DEST[showY][dst]`, the 16-entry table (R12, R202). -/
def destTable (showY : Bool) (dst : BitVec 3) : DestTemplate :=
  match dst.toNat with
  | 0 => destTemplate0 showY
  | 1 => destTemplate1 showY
  | 2 => destTemplate2 showY
  | 3 => destTemplate3 showY
  | 4 => destTemplate4 showY
  | 5 => destTemplate5 showY
  | 6 => destTemplate6 showY
  | _ => destTemplate7 showY

/-- DST_0: selects the template of code 0 (R202, R203). -/
def execDst0 (showY : Bool) (b : BitVec 4) (s : State) : Result :=
  .next (driveDest ⟨destTemplate0 showY, b⟩ s)

/-- DST_1: selects the template of code 1 (R202, R204). -/
def execDst1 (showY : Bool) (b : BitVec 4) (s : State) : Result :=
  .next (driveDest ⟨destTemplate1 showY, b⟩ s)

/-- DST_2: selects the template of code 2 (R202, R205). -/
def execDst2 (showY : Bool) (b : BitVec 4) (s : State) : Result :=
  .next (driveDest ⟨destTemplate2 showY, b⟩ s)

/-- DST_3: selects the template of code 3 (R202, R206). -/
def execDst3 (showY : Bool) (b : BitVec 4) (s : State) : Result :=
  .next (driveDest ⟨destTemplate3 showY, b⟩ s)

/-- DST_4: selects the template of code 4 (R202, R207). -/
def execDst4 (showY : Bool) (b : BitVec 4) (s : State) : Result :=
  .next (driveDest ⟨destTemplate4 showY, b⟩ s)

/-- DST_5: selects the template of code 5 (R202, R208). -/
def execDst5 (showY : Bool) (b : BitVec 4) (s : State) : Result :=
  .next (driveDest ⟨destTemplate5 showY, b⟩ s)

/-- DST_6: selects the template of code 6 (R202, R209). -/
def execDst6 (showY : Bool) (b : BitVec 4) (s : State) : Result :=
  .next (driveDest ⟨destTemplate6 showY, b⟩ s)

/-- DST_7: selects the template of code 7 (R202, R210). -/
def execDst7 (showY : Bool) (b : BitVec 4) (s : State) : Result :=
  .next (driveDest ⟨destTemplate7 showY, b⟩ s)

end Sys2Proof.Machine
end

