-- ==== Sys2Proof/Machine/FlagBits.lean ====
section
/-! DEFINITION. The rows of single flag bits, FLAG_H, FLAG_L, FLAG_S and CARRY (R87 to R89, R92). Each drives its
Field Decoder output; the flag letters, `eos`, `showY` and `jvalid` are functions of those outputs. -/

namespace Sys2Proof.Machine

/-- FLAG_H: `H = 1` (R87). -/
def execFlagH (s : State) : Result := .next (driveH true s)

/-- FLAG_L: `L = 1` (R88). -/
def execFlagL (s : State) : Result := .next (driveL true s)

/-- FLAG_S: `S = 1` (R89). -/
def execFlagS (s : State) : Result := .next (driveS true s)

/-- CARRY: `C = 1`, the carry input of every lookup of the word (R92, R211, D8; log entry 14). -/
def execCarry (s : State) : Result := .next (driveC true s)

end Sys2Proof.Machine
end

