-- ==== Sys2Proof/Machine/Format.lean ====
section
/-! DEFINITION. The format row MW24 (R98). -/

namespace Sys2Proof.Machine

/-- MW24: the Field Decoder drives its outputs with the fields of the word (R98). Its other four outputs, `jaddr`,
`jvalid`, `eos` and `showY`, are functions of these (R93 to R95). -/
def execMw24 (x : Fields) (s : State) : Result := .next (driveFields x s)

end Sys2Proof.Machine
end

