-- ==== Sys2Proof/Machine/Jump.lean ====
section
/-! DEFINITION. The jump rows (R216, R217, R224 to R226). Each drives the jump form and the outputs that its
pattern fixes, `J` and (for a jump) `S`, so that `eos` and `showY` come out as its rule says (log entry 22). The block
reports a jump and follows none (R18). -/

namespace Sys2Proof.Machine

open Sys2Proof

/-- JMP_NONE: `jump = NoJump` (R224). -/
def execJmpNone (s : State) : Result := .next (driveJump .noJump (driveJ false s))

/-- JMP_UNCOND: `jump = Uncond(target)` (R225). -/
def execJmpUncond (target : Option Address) (s : State) : Result :=
  .next (driveJump (.uncond target) (driveS false (driveJ true s)))

/-- JMP_COND: `jump = Cond(target)` (R226). What condition is tested is not in the source (N3); the block tests none. -/
def execJmpCond (target : Option Address) (s : State) : Result :=
  .next (driveJump (.cond target) (driveS true (driveJ true s)))

end Sys2Proof.Machine
end

