-- ==== Sys2Proof/Machine/Select.lean ====
section
/-! DEFINITION. The select rows: ALT_SELECT in its two patterns (R212, R96) and MUX (R213). -/

namespace Sys2Proof.Machine

/-- The low-select alternate, `render(f, sl, a, b, C)` (R212). -/
def alternate (f sl : BitVec 3) (a b : BitVec 4) (c : Bool) : Expr := render f sl a b c

/-- The multiplexer branch: the lookup at `sh ^ 2`, and the one at `sl ^ 2` if `sh != sl` (R213). The test is on the
codes, not on what they render (R212). -/
def muxBranch (f sh sl : BitVec 3) (a b : BitVec 4) (c : Bool) : MuxBranch :=
  { first := render f (muxSelect sh) a b c
    second := if sh ≠ sl then some (render f (muxSelect sl) a b c) else none }

/-- ALT_SELECT, `word[15] = 1` and `word[14] = 0`: `sl = {0, word[13:12]}`, `sh = sl + 4` (R96, R212). -/
def execAltSelectHigh (f : BitVec 3) (ss : BitVec 2) (a b : BitVec 4) (c : Bool) (s : State) : Result :=
  .next (driveAlt (alternate f (0#1 ++ ss) a b c) s)

/-- ALT_SELECT, `word[15] = 0` and `word[14] = 1`: `sl = {1, word[13:12]}`, `sl = sh + 4` (R96, R212). -/
def execAltSelectLow (f : BitVec 3) (ss : BitVec 2) (a b : BitVec 4) (c : Bool) (s : State) : Result :=
  .next (driveAlt (alternate f (1#1 ++ ss) a b c) s)

/-- MUX: `M = 1` and the branch (R91, R213). Which side is taken is not in the source (N3); the block shows both. -/
def execMux (f sh sl : BitVec 3) (a b : BitVec 4) (c : Bool) (s : State) : Result :=
  .next (driveMux (muxBranch f sh sl a b c) (driveM true s))

end Sys2Proof.Machine
end

