-- ==== Sys2Proof/Machine/Dispatch.lean ====
section
/-! DEFINITION. One arm for each row of the opcode table, each one call of the row's own meaning. -/

namespace Sys2Proof.Machine

open Sys2Proof

/-- The meaning of one row of the opcode table (R57, R58). -/
def exec (i : Instr) (s : State) : Host.Outcome State Fault Refusal :=
  match i with
  | .mw24 x => Sys2Proof.Machine.execMw24 x s
  | .aluF0S0 path a b c => Sys2Proof.Machine.execAluF0S0 path a b c s
  | .aluF0S1 path a b c => Sys2Proof.Machine.execAluF0S1 path a b c s
  | .aluF0S2 path a b c => Sys2Proof.Machine.execAluF0S2 path a b c s
  | .aluF0S3 path a b c => Sys2Proof.Machine.execAluF0S3 path a b c s
  | .aluF0S4 path a b c => Sys2Proof.Machine.execAluF0S4 path a b c s
  | .aluF0S5 path a b c => Sys2Proof.Machine.execAluF0S5 path a b c s
  | .aluF0S6 path a b c => Sys2Proof.Machine.execAluF0S6 path a b c s
  | .aluF0S7 path a b c => Sys2Proof.Machine.execAluF0S7 path a b c s
  | .aluF1S0 path a b c => Sys2Proof.Machine.execAluF1S0 path a b c s
  | .aluF1S1 path a b c => Sys2Proof.Machine.execAluF1S1 path a b c s
  | .aluF1S2 path a b c => Sys2Proof.Machine.execAluF1S2 path a b c s
  | .aluF1S3 path a b c => Sys2Proof.Machine.execAluF1S3 path a b c s
  | .aluF1S4 path a b c => Sys2Proof.Machine.execAluF1S4 path a b c s
  | .aluF1S5 path a b c => Sys2Proof.Machine.execAluF1S5 path a b c s
  | .aluF1S6 path a b c => Sys2Proof.Machine.execAluF1S6 path a b c s
  | .aluF1S7 path a b c => Sys2Proof.Machine.execAluF1S7 path a b c s
  | .aluF2S0 path a b c => Sys2Proof.Machine.execAluF2S0 path a b c s
  | .aluF2S1 path a b c => Sys2Proof.Machine.execAluF2S1 path a b c s
  | .aluF2S2 path a b c => Sys2Proof.Machine.execAluF2S2 path a b c s
  | .aluF2S3 path a b c => Sys2Proof.Machine.execAluF2S3 path a b c s
  | .aluF2S4 path a b c => Sys2Proof.Machine.execAluF2S4 path a b c s
  | .aluF2S5 path a b c => Sys2Proof.Machine.execAluF2S5 path a b c s
  | .aluF2S6 path a b c => Sys2Proof.Machine.execAluF2S6 path a b c s
  | .aluF2S7 path a b c => Sys2Proof.Machine.execAluF2S7 path a b c s
  | .aluF3S0 path a b c => Sys2Proof.Machine.execAluF3S0 path a b c s
  | .aluF3S1 path a b c => Sys2Proof.Machine.execAluF3S1 path a b c s
  | .aluF3S2 path a b c => Sys2Proof.Machine.execAluF3S2 path a b c s
  | .aluF3S3 path a b c => Sys2Proof.Machine.execAluF3S3 path a b c s
  | .aluF3S4 path a b c => Sys2Proof.Machine.execAluF3S4 path a b c s
  | .aluF3S5 path a b c => Sys2Proof.Machine.execAluF3S5 path a b c s
  | .aluF3S6 path a b c => Sys2Proof.Machine.execAluF3S6 path a b c s
  | .aluF3S7 path a b c => Sys2Proof.Machine.execAluF3S7 path a b c s
  | .aluF4S0 path a b c => Sys2Proof.Machine.execAluF4S0 path a b c s
  | .aluF4S1 path a b c => Sys2Proof.Machine.execAluF4S1 path a b c s
  | .aluF4S2 path a b c => Sys2Proof.Machine.execAluF4S2 path a b c s
  | .aluF4S3 path a b c => Sys2Proof.Machine.execAluF4S3 path a b c s
  | .aluF4S4 path a b c => Sys2Proof.Machine.execAluF4S4 path a b c s
  | .aluF4S5 path a b c => Sys2Proof.Machine.execAluF4S5 path a b c s
  | .aluF4S6 path a b c => Sys2Proof.Machine.execAluF4S6 path a b c s
  | .aluF4S7 path a b c => Sys2Proof.Machine.execAluF4S7 path a b c s
  | .aluF5S0 path a b c => Sys2Proof.Machine.execAluF5S0 path a b c s
  | .aluF5S1 path a b c => Sys2Proof.Machine.execAluF5S1 path a b c s
  | .aluF5S2 path a b c => Sys2Proof.Machine.execAluF5S2 path a b c s
  | .aluF5S3 path a b c => Sys2Proof.Machine.execAluF5S3 path a b c s
  | .aluF5S4 path a b c => Sys2Proof.Machine.execAluF5S4 path a b c s
  | .aluF5S5 path a b c => Sys2Proof.Machine.execAluF5S5 path a b c s
  | .aluF5S6 path a b c => Sys2Proof.Machine.execAluF5S6 path a b c s
  | .aluF5S7 path a b c => Sys2Proof.Machine.execAluF5S7 path a b c s
  | .aluF6S0 path a b c => Sys2Proof.Machine.execAluF6S0 path a b c s
  | .aluF6S1 path a b c => Sys2Proof.Machine.execAluF6S1 path a b c s
  | .aluF6S2 path a b c => Sys2Proof.Machine.execAluF6S2 path a b c s
  | .aluF6S3 path a b c => Sys2Proof.Machine.execAluF6S3 path a b c s
  | .aluF6S4 path a b c => Sys2Proof.Machine.execAluF6S4 path a b c s
  | .aluF6S5 path a b c => Sys2Proof.Machine.execAluF6S5 path a b c s
  | .aluF6S6 path a b c => Sys2Proof.Machine.execAluF6S6 path a b c s
  | .aluF6S7 path a b c => Sys2Proof.Machine.execAluF6S7 path a b c s
  | .aluF7S0 path a b c => Sys2Proof.Machine.execAluF7S0 path a b c s
  | .aluF7S1 path a b c => Sys2Proof.Machine.execAluF7S1 path a b c s
  | .aluF7S2 path a b c => Sys2Proof.Machine.execAluF7S2 path a b c s
  | .aluF7S3 path a b c => Sys2Proof.Machine.execAluF7S3 path a b c s
  | .aluF7S4 path a b c => Sys2Proof.Machine.execAluF7S4 path a b c s
  | .aluF7S5 path a b c => Sys2Proof.Machine.execAluF7S5 path a b c s
  | .aluF7S6 path a b c => Sys2Proof.Machine.execAluF7S6 path a b c s
  | .aluF7S7 path a b c => Sys2Proof.Machine.execAluF7S7 path a b c s
  | .dst0 y b => Sys2Proof.Machine.execDst0 y b s
  | .dst1 y b => Sys2Proof.Machine.execDst1 y b s
  | .dst2 y b => Sys2Proof.Machine.execDst2 y b s
  | .dst3 y b => Sys2Proof.Machine.execDst3 y b s
  | .dst4 y b => Sys2Proof.Machine.execDst4 y b s
  | .dst5 y b => Sys2Proof.Machine.execDst5 y b s
  | .dst6 y b => Sys2Proof.Machine.execDst6 y b s
  | .dst7 y b => Sys2Proof.Machine.execDst7 y b s
  | .jmpNone => Sys2Proof.Machine.execJmpNone s
  | .jmpUncond target => Sys2Proof.Machine.execJmpUncond target s
  | .jmpCond target => Sys2Proof.Machine.execJmpCond target s
  | .flagH => Sys2Proof.Machine.execFlagH s
  | .flagL => Sys2Proof.Machine.execFlagL s
  | .flagS => Sys2Proof.Machine.execFlagS s
  | .mux f sh sl a b c => Sys2Proof.Machine.execMux f sh sl a b c s
  | .carry => Sys2Proof.Machine.execCarry s
  | .altSelectHigh f ss a b c => Sys2Proof.Machine.execAltSelectHigh f ss a b c s
  | .altSelectLow f ss a b c => Sys2Proof.Machine.execAltSelectLow f ss a b c s
  | .addrload jaddr bit6 jBit => Sys2Proof.Machine.execAddrload jaddr bit6 jBit s

end Sys2Proof.Machine
end

