-- ==== Sys2Proof/WellFormed.lean ====
section
/-! DEFINITION. Which terms of `Instr` stand for a row of some word. Every operand takes every value of
its width (R60: no encoding is reserved); the one condition is that the two select codes are read from one
pair of shared bits (R96, R264). -/

namespace Sys2Proof

/-- `sh[1:0] = sl[1:0] = word[13:12]`: the low two bits of both codes are the same two wires (R96). -/
def selectsAgree (sh sl : BitVec 3) : Bool := sh.setWidth 2 == sl.setWidth 2

/-- Well-formed instructions: the rows that carry both select codes carry codes that agree. -/
def WellFormed : Instr → Bool
  | .mw24 x => selectsAgree x.sh x.sl
  | .mux _ sh sl _ _ _ => selectsAgree sh sl
  | .aluF0S0 _ _ _ _ => true
  | .aluF0S1 _ _ _ _ => true
  | .aluF0S2 _ _ _ _ => true
  | .aluF0S3 _ _ _ _ => true
  | .aluF0S4 _ _ _ _ => true
  | .aluF0S5 _ _ _ _ => true
  | .aluF0S6 _ _ _ _ => true
  | .aluF0S7 _ _ _ _ => true
  | .aluF1S0 _ _ _ _ => true
  | .aluF1S1 _ _ _ _ => true
  | .aluF1S2 _ _ _ _ => true
  | .aluF1S3 _ _ _ _ => true
  | .aluF1S4 _ _ _ _ => true
  | .aluF1S5 _ _ _ _ => true
  | .aluF1S6 _ _ _ _ => true
  | .aluF1S7 _ _ _ _ => true
  | .aluF2S0 _ _ _ _ => true
  | .aluF2S1 _ _ _ _ => true
  | .aluF2S2 _ _ _ _ => true
  | .aluF2S3 _ _ _ _ => true
  | .aluF2S4 _ _ _ _ => true
  | .aluF2S5 _ _ _ _ => true
  | .aluF2S6 _ _ _ _ => true
  | .aluF2S7 _ _ _ _ => true
  | .aluF3S0 _ _ _ _ => true
  | .aluF3S1 _ _ _ _ => true
  | .aluF3S2 _ _ _ _ => true
  | .aluF3S3 _ _ _ _ => true
  | .aluF3S4 _ _ _ _ => true
  | .aluF3S5 _ _ _ _ => true
  | .aluF3S6 _ _ _ _ => true
  | .aluF3S7 _ _ _ _ => true
  | .aluF4S0 _ _ _ _ => true
  | .aluF4S1 _ _ _ _ => true
  | .aluF4S2 _ _ _ _ => true
  | .aluF4S3 _ _ _ _ => true
  | .aluF4S4 _ _ _ _ => true
  | .aluF4S5 _ _ _ _ => true
  | .aluF4S6 _ _ _ _ => true
  | .aluF4S7 _ _ _ _ => true
  | .aluF5S0 _ _ _ _ => true
  | .aluF5S1 _ _ _ _ => true
  | .aluF5S2 _ _ _ _ => true
  | .aluF5S3 _ _ _ _ => true
  | .aluF5S4 _ _ _ _ => true
  | .aluF5S5 _ _ _ _ => true
  | .aluF5S6 _ _ _ _ => true
  | .aluF5S7 _ _ _ _ => true
  | .aluF6S0 _ _ _ _ => true
  | .aluF6S1 _ _ _ _ => true
  | .aluF6S2 _ _ _ _ => true
  | .aluF6S3 _ _ _ _ => true
  | .aluF6S4 _ _ _ _ => true
  | .aluF6S5 _ _ _ _ => true
  | .aluF6S6 _ _ _ _ => true
  | .aluF6S7 _ _ _ _ => true
  | .aluF7S0 _ _ _ _ => true
  | .aluF7S1 _ _ _ _ => true
  | .aluF7S2 _ _ _ _ => true
  | .aluF7S3 _ _ _ _ => true
  | .aluF7S4 _ _ _ _ => true
  | .aluF7S5 _ _ _ _ => true
  | .aluF7S6 _ _ _ _ => true
  | .aluF7S7 _ _ _ _ => true
  | .dst0 _ _ => true
  | .dst1 _ _ => true
  | .dst2 _ _ => true
  | .dst3 _ _ => true
  | .dst4 _ _ => true
  | .dst5 _ _ => true
  | .dst6 _ _ => true
  | .dst7 _ _ => true
  | .jmpNone => true
  | .jmpUncond _ => true
  | .jmpCond _ => true
  | .flagH => true
  | .flagL => true
  | .flagS => true
  | .carry => true
  | .altSelectHigh _ _ _ _ _ => true
  | .altSelectLow _ _ _ _ _ => true
  | .addrload _ _ _ => true

end Sys2Proof
end

