-- ==== Sys2Proof/Decode.lean ====
section
/-! DEFINITION. The decoder: how a 24-bit word is cut into fields (R51, R81 to R95), which rows of the
opcode table act in it (R57, R58), and the encoder that writes a word in which a given row acts. Both are
total; the one thing refused, by name, is a number that is no 24-bit word. -/

namespace Sys2Proof

open Sys2Proof.Machine

/-! ### The Field Decoder -/

/-- `word[i]` as a boolean (00_scope.md section 5). -/
def bitAt (w : Word) (i : Nat) : Bool := w.getLsbD i

/-- The high-select code, by the document's own transformation: mask bits 15:12 with `1011`, then subtract 4
from a result above 7 (R84, R54). -/
def selectHigh (w : Word) : BitVec 3 :=
  let r : BitVec 4 := w.extractLsb' 12 4 &&& 0b1011#4
  if r > 7#4 then (r - 4#4).setWidth 3 else r.setWidth 3

/-- The low-select code `word[14:12]` (R85). -/
def selectLow (w : Word) : BitVec 3 := w.extractLsb' 12 3

/-- The Field Decoder: every field by its slice (R51, R81 to R92, R98). -/
def decodeFields (w : Word) : Fields :=
  { a := w.extractLsb' 20 4
    b := w.extractLsb' 16 4
    f := w.extractLsb' 8 3
    sh := selectHigh w
    sl := selectLow w
    dst := w.extractLsb' 4 3
    H := bitAt w 11
    L := bitAt w 7
    S := bitAt w 3
    J := bitAt w 2
    M := bitAt w 1
    C := bitAt w 0 }

/-- `jaddr = word[23:16] = {a, b}`: the eight wires that always carry the two indices read as one (R93). -/
def Fields.jaddr (x : Fields) : Address := x.a ++ x.b

/-- `jvalid = L` (R93). -/
def Fields.jvalid (x : Fields) : Bool := x.L

/-- The jump address, present iff `L` is set (R93). -/
def Fields.jumpAddress (x : Fields) : Option Address := jumpTarget x.L x.jaddr

/-- The end-of-sequence output (R94). -/
def Fields.eos (x : Fields) : Bool := eosOf x.H x.J x.S

/-- The derived boolean that picks the destination variant (R95). -/
def Fields.showY (x : Fields) : Bool := showYOf x.H x.J x.S

/-! ### The address-load test -/

/-- `ADDRLOAD_MASK`: the low 16 bits without bits 2 and 6 (R13, R201). -/
def addrLoadMask : BitVec 16 := 0xFFBB#16

/-- `ADDRLOAD_SENTINEL`, recovered from the one scenario that shows it (R13, R201, D9; log entry 11). -/
def addrLoadSentinel : BitVec 16 := 0x0090#16

/-- `((word & 0xFFFF) & 0xFFBB) == 0x0090` (R201, R59). -/
def isAddrLoad (w : Word) : Bool := (w.setWidth 16 &&& addrLoadMask) == addrLoadSentinel

/-! ### From fields to rows -/

/-- The ALU row of the pair `(f, s)`: every one of the 64 pairs has one (R57, R60, R111). -/
def aluRow (f s : BitVec 3) (path : SelPath) (a b : BitVec 4) (c : Bool) : Instr :=
  match f.toNat with
  | 0 =>
    match s.toNat with
    | 0 => .aluF0S0 path a b c
    | 1 => .aluF0S1 path a b c
    | 2 => .aluF0S2 path a b c
    | 3 => .aluF0S3 path a b c
    | 4 => .aluF0S4 path a b c
    | 5 => .aluF0S5 path a b c
    | 6 => .aluF0S6 path a b c
    | _ => .aluF0S7 path a b c
  | 1 =>
    match s.toNat with
    | 0 => .aluF1S0 path a b c
    | 1 => .aluF1S1 path a b c
    | 2 => .aluF1S2 path a b c
    | 3 => .aluF1S3 path a b c
    | 4 => .aluF1S4 path a b c
    | 5 => .aluF1S5 path a b c
    | 6 => .aluF1S6 path a b c
    | _ => .aluF1S7 path a b c
  | 2 =>
    match s.toNat with
    | 0 => .aluF2S0 path a b c
    | 1 => .aluF2S1 path a b c
    | 2 => .aluF2S2 path a b c
    | 3 => .aluF2S3 path a b c
    | 4 => .aluF2S4 path a b c
    | 5 => .aluF2S5 path a b c
    | 6 => .aluF2S6 path a b c
    | _ => .aluF2S7 path a b c
  | 3 =>
    match s.toNat with
    | 0 => .aluF3S0 path a b c
    | 1 => .aluF3S1 path a b c
    | 2 => .aluF3S2 path a b c
    | 3 => .aluF3S3 path a b c
    | 4 => .aluF3S4 path a b c
    | 5 => .aluF3S5 path a b c
    | 6 => .aluF3S6 path a b c
    | _ => .aluF3S7 path a b c
  | 4 =>
    match s.toNat with
    | 0 => .aluF4S0 path a b c
    | 1 => .aluF4S1 path a b c
    | 2 => .aluF4S2 path a b c
    | 3 => .aluF4S3 path a b c
    | 4 => .aluF4S4 path a b c
    | 5 => .aluF4S5 path a b c
    | 6 => .aluF4S6 path a b c
    | _ => .aluF4S7 path a b c
  | 5 =>
    match s.toNat with
    | 0 => .aluF5S0 path a b c
    | 1 => .aluF5S1 path a b c
    | 2 => .aluF5S2 path a b c
    | 3 => .aluF5S3 path a b c
    | 4 => .aluF5S4 path a b c
    | 5 => .aluF5S5 path a b c
    | 6 => .aluF5S6 path a b c
    | _ => .aluF5S7 path a b c
  | 6 =>
    match s.toNat with
    | 0 => .aluF6S0 path a b c
    | 1 => .aluF6S1 path a b c
    | 2 => .aluF6S2 path a b c
    | 3 => .aluF6S3 path a b c
    | 4 => .aluF6S4 path a b c
    | 5 => .aluF6S5 path a b c
    | 6 => .aluF6S6 path a b c
    | _ => .aluF6S7 path a b c
  | _ =>
    match s.toNat with
    | 0 => .aluF7S0 path a b c
    | 1 => .aluF7S1 path a b c
    | 2 => .aluF7S2 path a b c
    | 3 => .aluF7S3 path a b c
    | 4 => .aluF7S4 path a b c
    | 5 => .aluF7S5 path a b c
    | 6 => .aluF7S6 path a b c
    | _ => .aluF7S7 path a b c

/-- The destination row of the code `dst` (R57, R202). -/
def dstRow (dst : BitVec 3) (showY : Bool) (b : BitVec 4) : Instr :=
  match dst.toNat with
  | 0 => .dst0 showY b
  | 1 => .dst1 showY b
  | 2 => .dst2 showY b
  | 3 => .dst3 showY b
  | 4 => .dst4 showY b
  | 5 => .dst5 showY b
  | 6 => .dst6 showY b
  | _ => .dst7 showY b

/-- The jump row of `J` and `S`, with the target that `L` makes present (R224 to R226, R216, R217). -/
def jumpRow (x : Fields) : Instr :=
  if x.J then (if x.S then .jmpCond x.jumpAddress else .jmpUncond x.jumpAddress) else .jmpNone

/-- The ALT_SELECT row of a word whose select codes differ: the first pattern when bit 15 is the set one,
else the second (R57, R96, R212). -/
def altRow (x : Fields) : Instr :=
  if x.sh.getLsbD 2 then .altSelectHigh x.f (x.sl.setWidth 2) x.a x.b x.C
  else .altSelectLow x.f (x.sl.setWidth 2) x.a x.b x.C

/-- The rows that write single Field Decoder outputs: CARRY, FLAG_H, FLAG_L, FLAG_S (R87 to R89, R92). -/
def flagRows (x : Fields) : List Instr :=
  (if x.C then [.carry] else []) ++ (if x.H then [.flagH] else [])
    ++ (if x.L then [.flagL] else []) ++ (if x.S then [.flagS] else [])

/-- The rows of the body of a word that is not an address-load word: the ALU row at `sh`, with ALT_SELECT and the
ALU row at `sl` when the codes differ, MUX when `M` is set, and the destination row (R58 (3)). -/
def transferRows (x : Fields) : List Instr :=
  [aluRow x.f x.sh .high x.a x.b x.C]
    ++ (if x.sh ≠ x.sl then [altRow x, aluRow x.f x.sl .low x.a x.b x.C] else [])
    ++ (if x.M then [.mux x.f x.sh x.sl x.a x.b x.C] else [])
    ++ [dstRow x.dst x.showY x.b]

/-- The rows of the body: the address-load row alone when the pattern matches, which has priority over the
normal body (R58 (2), R59, R221, R265), else those of the transfer. -/
def bodyRows (w : Word) (x : Fields) : List Instr :=
  if isAddrLoad w then [.addrload x.jaddr (x.dst.getLsbD 2) x.J] else transferRows x

/-- The rows that act in a word (R57, R58): the format and the flags, the body, the jump. -/
def decodeRows (w : Word) : List Instr :=
  let x := decodeFields w
  [.mw24 x] ++ flagRows x ++ bodyRows w x ++ [jumpRow x]

/-! ### The opcode table's patterns -/

/-- The mask of a row in spec/opcode_table.json; for an ALU row the one of its path (R57). -/
def rowMask : Instr → Word
  | .mw24 _ => 0x000000#24
  | .aluF0S0 path _ _ _ => match path with | .high => 0x00B700#24 | .low => 0x007700#24
  | .aluF0S1 path _ _ _ => match path with | .high => 0x00B700#24 | .low => 0x007700#24
  | .aluF0S2 path _ _ _ => match path with | .high => 0x00B700#24 | .low => 0x007700#24
  | .aluF0S3 path _ _ _ => match path with | .high => 0x00B700#24 | .low => 0x007700#24
  | .aluF0S4 path _ _ _ => match path with | .high => 0x00B700#24 | .low => 0x007700#24
  | .aluF0S5 path _ _ _ => match path with | .high => 0x00B700#24 | .low => 0x007700#24
  | .aluF0S6 path _ _ _ => match path with | .high => 0x00B700#24 | .low => 0x007700#24
  | .aluF0S7 path _ _ _ => match path with | .high => 0x00B700#24 | .low => 0x007700#24
  | .aluF1S0 path _ _ _ => match path with | .high => 0x00B700#24 | .low => 0x007700#24
  | .aluF1S1 path _ _ _ => match path with | .high => 0x00B700#24 | .low => 0x007700#24
  | .aluF1S2 path _ _ _ => match path with | .high => 0x00B700#24 | .low => 0x007700#24
  | .aluF1S3 path _ _ _ => match path with | .high => 0x00B700#24 | .low => 0x007700#24
  | .aluF1S4 path _ _ _ => match path with | .high => 0x00B700#24 | .low => 0x007700#24
  | .aluF1S5 path _ _ _ => match path with | .high => 0x00B700#24 | .low => 0x007700#24
  | .aluF1S6 path _ _ _ => match path with | .high => 0x00B700#24 | .low => 0x007700#24
  | .aluF1S7 path _ _ _ => match path with | .high => 0x00B700#24 | .low => 0x007700#24
  | .aluF2S0 path _ _ _ => match path with | .high => 0x00B700#24 | .low => 0x007700#24
  | .aluF2S1 path _ _ _ => match path with | .high => 0x00B700#24 | .low => 0x007700#24
  | .aluF2S2 path _ _ _ => match path with | .high => 0x00B700#24 | .low => 0x007700#24
  | .aluF2S3 path _ _ _ => match path with | .high => 0x00B700#24 | .low => 0x007700#24
  | .aluF2S4 path _ _ _ => match path with | .high => 0x00B700#24 | .low => 0x007700#24
  | .aluF2S5 path _ _ _ => match path with | .high => 0x00B700#24 | .low => 0x007700#24
  | .aluF2S6 path _ _ _ => match path with | .high => 0x00B700#24 | .low => 0x007700#24
  | .aluF2S7 path _ _ _ => match path with | .high => 0x00B700#24 | .low => 0x007700#24
  | .aluF3S0 path _ _ _ => match path with | .high => 0x00B700#24 | .low => 0x007700#24
  | .aluF3S1 path _ _ _ => match path with | .high => 0x00B700#24 | .low => 0x007700#24
  | .aluF3S2 path _ _ _ => match path with | .high => 0x00B700#24 | .low => 0x007700#24
  | .aluF3S3 path _ _ _ => match path with | .high => 0x00B700#24 | .low => 0x007700#24
  | .aluF3S4 path _ _ _ => match path with | .high => 0x00B700#24 | .low => 0x007700#24
  | .aluF3S5 path _ _ _ => match path with | .high => 0x00B700#24 | .low => 0x007700#24
  | .aluF3S6 path _ _ _ => match path with | .high => 0x00B700#24 | .low => 0x007700#24
  | .aluF3S7 path _ _ _ => match path with | .high => 0x00B700#24 | .low => 0x007700#24
  | .aluF4S0 path _ _ _ => match path with | .high => 0x00B700#24 | .low => 0x007700#24
  | .aluF4S1 path _ _ _ => match path with | .high => 0x00B700#24 | .low => 0x007700#24
  | .aluF4S2 path _ _ _ => match path with | .high => 0x00B700#24 | .low => 0x007700#24
  | .aluF4S3 path _ _ _ => match path with | .high => 0x00B700#24 | .low => 0x007700#24
  | .aluF4S4 path _ _ _ => match path with | .high => 0x00B700#24 | .low => 0x007700#24
  | .aluF4S5 path _ _ _ => match path with | .high => 0x00B700#24 | .low => 0x007700#24
  | .aluF4S6 path _ _ _ => match path with | .high => 0x00B700#24 | .low => 0x007700#24
  | .aluF4S7 path _ _ _ => match path with | .high => 0x00B700#24 | .low => 0x007700#24
  | .aluF5S0 path _ _ _ => match path with | .high => 0x00B700#24 | .low => 0x007700#24
  | .aluF5S1 path _ _ _ => match path with | .high => 0x00B700#24 | .low => 0x007700#24
  | .aluF5S2 path _ _ _ => match path with | .high => 0x00B700#24 | .low => 0x007700#24
  | .aluF5S3 path _ _ _ => match path with | .high => 0x00B700#24 | .low => 0x007700#24
  | .aluF5S4 path _ _ _ => match path with | .high => 0x00B700#24 | .low => 0x007700#24
  | .aluF5S5 path _ _ _ => match path with | .high => 0x00B700#24 | .low => 0x007700#24
  | .aluF5S6 path _ _ _ => match path with | .high => 0x00B700#24 | .low => 0x007700#24
  | .aluF5S7 path _ _ _ => match path with | .high => 0x00B700#24 | .low => 0x007700#24
  | .aluF6S0 path _ _ _ => match path with | .high => 0x00B700#24 | .low => 0x007700#24
  | .aluF6S1 path _ _ _ => match path with | .high => 0x00B700#24 | .low => 0x007700#24
  | .aluF6S2 path _ _ _ => match path with | .high => 0x00B700#24 | .low => 0x007700#24
  | .aluF6S3 path _ _ _ => match path with | .high => 0x00B700#24 | .low => 0x007700#24
  | .aluF6S4 path _ _ _ => match path with | .high => 0x00B700#24 | .low => 0x007700#24
  | .aluF6S5 path _ _ _ => match path with | .high => 0x00B700#24 | .low => 0x007700#24
  | .aluF6S6 path _ _ _ => match path with | .high => 0x00B700#24 | .low => 0x007700#24
  | .aluF6S7 path _ _ _ => match path with | .high => 0x00B700#24 | .low => 0x007700#24
  | .aluF7S0 path _ _ _ => match path with | .high => 0x00B700#24 | .low => 0x007700#24
  | .aluF7S1 path _ _ _ => match path with | .high => 0x00B700#24 | .low => 0x007700#24
  | .aluF7S2 path _ _ _ => match path with | .high => 0x00B700#24 | .low => 0x007700#24
  | .aluF7S3 path _ _ _ => match path with | .high => 0x00B700#24 | .low => 0x007700#24
  | .aluF7S4 path _ _ _ => match path with | .high => 0x00B700#24 | .low => 0x007700#24
  | .aluF7S5 path _ _ _ => match path with | .high => 0x00B700#24 | .low => 0x007700#24
  | .aluF7S6 path _ _ _ => match path with | .high => 0x00B700#24 | .low => 0x007700#24
  | .aluF7S7 path _ _ _ => match path with | .high => 0x00B700#24 | .low => 0x007700#24
  | .dst0 _ _ => 0x000070#24
  | .dst1 _ _ => 0x000070#24
  | .dst2 _ _ => 0x000070#24
  | .dst3 _ _ => 0x000070#24
  | .dst4 _ _ => 0x000070#24
  | .dst5 _ _ => 0x000070#24
  | .dst6 _ _ => 0x000070#24
  | .dst7 _ _ => 0x000070#24
  | .jmpNone => 0x000004#24
  | .jmpUncond _ => 0x00000C#24
  | .jmpCond _ => 0x00000C#24
  | .flagH => 0x000800#24
  | .flagL => 0x000080#24
  | .flagS => 0x000008#24
  | .mux _ _ _ _ _ _ => 0x000002#24
  | .carry => 0x000001#24
  | .altSelectHigh _ _ _ _ _ => 0x00C000#24
  | .altSelectLow _ _ _ _ _ => 0x00C000#24
  | .addrload _ _ _ => 0x00FFBB#24

/-- The match value of a row in spec/opcode_table.json under `rowMask` (R57). -/
def rowMatch : Instr → Word
  | .mw24 _ => 0x000000#24
  | .aluF0S0 path _ _ _ => match path with | .high => 0x000000#24 | .low => 0x000000#24
  | .aluF0S1 path _ _ _ => match path with | .high => 0x001000#24 | .low => 0x001000#24
  | .aluF0S2 path _ _ _ => match path with | .high => 0x002000#24 | .low => 0x002000#24
  | .aluF0S3 path _ _ _ => match path with | .high => 0x003000#24 | .low => 0x003000#24
  | .aluF0S4 path _ _ _ => match path with | .high => 0x008000#24 | .low => 0x004000#24
  | .aluF0S5 path _ _ _ => match path with | .high => 0x009000#24 | .low => 0x005000#24
  | .aluF0S6 path _ _ _ => match path with | .high => 0x00A000#24 | .low => 0x006000#24
  | .aluF0S7 path _ _ _ => match path with | .high => 0x00B000#24 | .low => 0x007000#24
  | .aluF1S0 path _ _ _ => match path with | .high => 0x000100#24 | .low => 0x000100#24
  | .aluF1S1 path _ _ _ => match path with | .high => 0x001100#24 | .low => 0x001100#24
  | .aluF1S2 path _ _ _ => match path with | .high => 0x002100#24 | .low => 0x002100#24
  | .aluF1S3 path _ _ _ => match path with | .high => 0x003100#24 | .low => 0x003100#24
  | .aluF1S4 path _ _ _ => match path with | .high => 0x008100#24 | .low => 0x004100#24
  | .aluF1S5 path _ _ _ => match path with | .high => 0x009100#24 | .low => 0x005100#24
  | .aluF1S6 path _ _ _ => match path with | .high => 0x00A100#24 | .low => 0x006100#24
  | .aluF1S7 path _ _ _ => match path with | .high => 0x00B100#24 | .low => 0x007100#24
  | .aluF2S0 path _ _ _ => match path with | .high => 0x000200#24 | .low => 0x000200#24
  | .aluF2S1 path _ _ _ => match path with | .high => 0x001200#24 | .low => 0x001200#24
  | .aluF2S2 path _ _ _ => match path with | .high => 0x002200#24 | .low => 0x002200#24
  | .aluF2S3 path _ _ _ => match path with | .high => 0x003200#24 | .low => 0x003200#24
  | .aluF2S4 path _ _ _ => match path with | .high => 0x008200#24 | .low => 0x004200#24
  | .aluF2S5 path _ _ _ => match path with | .high => 0x009200#24 | .low => 0x005200#24
  | .aluF2S6 path _ _ _ => match path with | .high => 0x00A200#24 | .low => 0x006200#24
  | .aluF2S7 path _ _ _ => match path with | .high => 0x00B200#24 | .low => 0x007200#24
  | .aluF3S0 path _ _ _ => match path with | .high => 0x000300#24 | .low => 0x000300#24
  | .aluF3S1 path _ _ _ => match path with | .high => 0x001300#24 | .low => 0x001300#24
  | .aluF3S2 path _ _ _ => match path with | .high => 0x002300#24 | .low => 0x002300#24
  | .aluF3S3 path _ _ _ => match path with | .high => 0x003300#24 | .low => 0x003300#24
  | .aluF3S4 path _ _ _ => match path with | .high => 0x008300#24 | .low => 0x004300#24
  | .aluF3S5 path _ _ _ => match path with | .high => 0x009300#24 | .low => 0x005300#24
  | .aluF3S6 path _ _ _ => match path with | .high => 0x00A300#24 | .low => 0x006300#24
  | .aluF3S7 path _ _ _ => match path with | .high => 0x00B300#24 | .low => 0x007300#24
  | .aluF4S0 path _ _ _ => match path with | .high => 0x000400#24 | .low => 0x000400#24
  | .aluF4S1 path _ _ _ => match path with | .high => 0x001400#24 | .low => 0x001400#24
  | .aluF4S2 path _ _ _ => match path with | .high => 0x002400#24 | .low => 0x002400#24
  | .aluF4S3 path _ _ _ => match path with | .high => 0x003400#24 | .low => 0x003400#24
  | .aluF4S4 path _ _ _ => match path with | .high => 0x008400#24 | .low => 0x004400#24
  | .aluF4S5 path _ _ _ => match path with | .high => 0x009400#24 | .low => 0x005400#24
  | .aluF4S6 path _ _ _ => match path with | .high => 0x00A400#24 | .low => 0x006400#24
  | .aluF4S7 path _ _ _ => match path with | .high => 0x00B400#24 | .low => 0x007400#24
  | .aluF5S0 path _ _ _ => match path with | .high => 0x000500#24 | .low => 0x000500#24
  | .aluF5S1 path _ _ _ => match path with | .high => 0x001500#24 | .low => 0x001500#24
  | .aluF5S2 path _ _ _ => match path with | .high => 0x002500#24 | .low => 0x002500#24
  | .aluF5S3 path _ _ _ => match path with | .high => 0x003500#24 | .low => 0x003500#24
  | .aluF5S4 path _ _ _ => match path with | .high => 0x008500#24 | .low => 0x004500#24
  | .aluF5S5 path _ _ _ => match path with | .high => 0x009500#24 | .low => 0x005500#24
  | .aluF5S6 path _ _ _ => match path with | .high => 0x00A500#24 | .low => 0x006500#24
  | .aluF5S7 path _ _ _ => match path with | .high => 0x00B500#24 | .low => 0x007500#24
  | .aluF6S0 path _ _ _ => match path with | .high => 0x000600#24 | .low => 0x000600#24
  | .aluF6S1 path _ _ _ => match path with | .high => 0x001600#24 | .low => 0x001600#24
  | .aluF6S2 path _ _ _ => match path with | .high => 0x002600#24 | .low => 0x002600#24
  | .aluF6S3 path _ _ _ => match path with | .high => 0x003600#24 | .low => 0x003600#24
  | .aluF6S4 path _ _ _ => match path with | .high => 0x008600#24 | .low => 0x004600#24
  | .aluF6S5 path _ _ _ => match path with | .high => 0x009600#24 | .low => 0x005600#24
  | .aluF6S6 path _ _ _ => match path with | .high => 0x00A600#24 | .low => 0x006600#24
  | .aluF6S7 path _ _ _ => match path with | .high => 0x00B600#24 | .low => 0x007600#24
  | .aluF7S0 path _ _ _ => match path with | .high => 0x000700#24 | .low => 0x000700#24
  | .aluF7S1 path _ _ _ => match path with | .high => 0x001700#24 | .low => 0x001700#24
  | .aluF7S2 path _ _ _ => match path with | .high => 0x002700#24 | .low => 0x002700#24
  | .aluF7S3 path _ _ _ => match path with | .high => 0x003700#24 | .low => 0x003700#24
  | .aluF7S4 path _ _ _ => match path with | .high => 0x008700#24 | .low => 0x004700#24
  | .aluF7S5 path _ _ _ => match path with | .high => 0x009700#24 | .low => 0x005700#24
  | .aluF7S6 path _ _ _ => match path with | .high => 0x00A700#24 | .low => 0x006700#24
  | .aluF7S7 path _ _ _ => match path with | .high => 0x00B700#24 | .low => 0x007700#24
  | .dst0 _ _ => 0x000000#24
  | .dst1 _ _ => 0x000010#24
  | .dst2 _ _ => 0x000020#24
  | .dst3 _ _ => 0x000030#24
  | .dst4 _ _ => 0x000040#24
  | .dst5 _ _ => 0x000050#24
  | .dst6 _ _ => 0x000060#24
  | .dst7 _ _ => 0x000070#24
  | .jmpNone => 0x000000#24
  | .jmpUncond _ => 0x000004#24
  | .jmpCond _ => 0x00000C#24
  | .flagH => 0x000800#24
  | .flagL => 0x000080#24
  | .flagS => 0x000008#24
  | .mux _ _ _ _ _ _ => 0x000002#24
  | .carry => 0x000001#24
  | .altSelectHigh _ _ _ _ _ => 0x008000#24
  | .altSelectLow _ _ _ _ _ => 0x004000#24
  | .addrload _ _ _ => 0x000090#24

/-! ### The encoder -/

/-- A field put at its place in the word: its bit 0 at bit `lo` (R51). -/
def placeAt {n : Nat} (lo : Nat) (v : BitVec n) : Word := v.setWidth 24 <<< lo

/-- A flag put at its bit (R51). -/
def placeBit (i : Nat) (v : Bool) : Word := placeAt i (BitVec.ofBool v)

/-- The word of twelve fields, in the layout `aaaabbbbhlssHfffLdddSJMC` of R51: `h` and `l` are the top bits of
`sh` and `sl`, `ss` their shared low bits (taken from `sl`; R96 makes the two equal). -/
def encodeFields (x : Fields) : Word :=
  placeAt 20 x.a ||| placeAt 16 x.b ||| placeBit 15 (x.sh.getLsbD 2) ||| placeAt 12 x.sl
    ||| placeBit 11 x.H ||| placeAt 8 x.f ||| placeBit 7 x.L ||| placeAt 4 x.dst
    ||| placeBit 3 x.S ||| placeBit 2 x.J ||| placeBit 1 x.M ||| placeBit 0 x.C

/-- The fields of the word that an ALU row is encoded in. By the high path, bit 14 is clear, as in the table's
match value; by the low path, bit 15 is the complement of bit 14, since the low code is looked up only when
the two differ (R57, R212; log entry 24). -/
def aluFields (f s : BitVec 3) (path : SelPath) (a b : BitVec 4) (c : Bool) : Fields :=
  match path with
  | .high => { Fields.zero with a := a, b := b, f := f, sh := s, sl := s &&& 3#3, C := c }
  | .low => { Fields.zero with a := a, b := b, f := f, sh := s ^^^ 4#3, sl := s, C := c }

/-- The fields of the word that a destination row is encoded in; `showY` is carried by `H` (R95, log entry 24). -/
def dstFields (dst : BitVec 3) (showY : Bool) (b : BitVec 4) : Fields :=
  { Fields.zero with b := b, dst := dst, H := showY }

/-- The fields of the word that a jump row is encoded in: a target is the address bits with `L` set (R93, R217). -/
def jumpFields (s : Bool) : Option Address → Fields
  | some t => { Fields.zero with a := t.extractLsb' 4 4, b := t.extractLsb' 0 4, L := true, S := s, J := true }
  | none => { Fields.zero with S := s, J := true }

/-- The fields of the word that an instruction is encoded in; those that it does not name are 0. -/
def instrFields : Instr → Fields
  | .mw24 x => x
  | .aluF0S0 path a b c => aluFields 0#3 0#3 path a b c
  | .aluF0S1 path a b c => aluFields 0#3 1#3 path a b c
  | .aluF0S2 path a b c => aluFields 0#3 2#3 path a b c
  | .aluF0S3 path a b c => aluFields 0#3 3#3 path a b c
  | .aluF0S4 path a b c => aluFields 0#3 4#3 path a b c
  | .aluF0S5 path a b c => aluFields 0#3 5#3 path a b c
  | .aluF0S6 path a b c => aluFields 0#3 6#3 path a b c
  | .aluF0S7 path a b c => aluFields 0#3 7#3 path a b c
  | .aluF1S0 path a b c => aluFields 1#3 0#3 path a b c
  | .aluF1S1 path a b c => aluFields 1#3 1#3 path a b c
  | .aluF1S2 path a b c => aluFields 1#3 2#3 path a b c
  | .aluF1S3 path a b c => aluFields 1#3 3#3 path a b c
  | .aluF1S4 path a b c => aluFields 1#3 4#3 path a b c
  | .aluF1S5 path a b c => aluFields 1#3 5#3 path a b c
  | .aluF1S6 path a b c => aluFields 1#3 6#3 path a b c
  | .aluF1S7 path a b c => aluFields 1#3 7#3 path a b c
  | .aluF2S0 path a b c => aluFields 2#3 0#3 path a b c
  | .aluF2S1 path a b c => aluFields 2#3 1#3 path a b c
  | .aluF2S2 path a b c => aluFields 2#3 2#3 path a b c
  | .aluF2S3 path a b c => aluFields 2#3 3#3 path a b c
  | .aluF2S4 path a b c => aluFields 2#3 4#3 path a b c
  | .aluF2S5 path a b c => aluFields 2#3 5#3 path a b c
  | .aluF2S6 path a b c => aluFields 2#3 6#3 path a b c
  | .aluF2S7 path a b c => aluFields 2#3 7#3 path a b c
  | .aluF3S0 path a b c => aluFields 3#3 0#3 path a b c
  | .aluF3S1 path a b c => aluFields 3#3 1#3 path a b c
  | .aluF3S2 path a b c => aluFields 3#3 2#3 path a b c
  | .aluF3S3 path a b c => aluFields 3#3 3#3 path a b c
  | .aluF3S4 path a b c => aluFields 3#3 4#3 path a b c
  | .aluF3S5 path a b c => aluFields 3#3 5#3 path a b c
  | .aluF3S6 path a b c => aluFields 3#3 6#3 path a b c
  | .aluF3S7 path a b c => aluFields 3#3 7#3 path a b c
  | .aluF4S0 path a b c => aluFields 4#3 0#3 path a b c
  | .aluF4S1 path a b c => aluFields 4#3 1#3 path a b c
  | .aluF4S2 path a b c => aluFields 4#3 2#3 path a b c
  | .aluF4S3 path a b c => aluFields 4#3 3#3 path a b c
  | .aluF4S4 path a b c => aluFields 4#3 4#3 path a b c
  | .aluF4S5 path a b c => aluFields 4#3 5#3 path a b c
  | .aluF4S6 path a b c => aluFields 4#3 6#3 path a b c
  | .aluF4S7 path a b c => aluFields 4#3 7#3 path a b c
  | .aluF5S0 path a b c => aluFields 5#3 0#3 path a b c
  | .aluF5S1 path a b c => aluFields 5#3 1#3 path a b c
  | .aluF5S2 path a b c => aluFields 5#3 2#3 path a b c
  | .aluF5S3 path a b c => aluFields 5#3 3#3 path a b c
  | .aluF5S4 path a b c => aluFields 5#3 4#3 path a b c
  | .aluF5S5 path a b c => aluFields 5#3 5#3 path a b c
  | .aluF5S6 path a b c => aluFields 5#3 6#3 path a b c
  | .aluF5S7 path a b c => aluFields 5#3 7#3 path a b c
  | .aluF6S0 path a b c => aluFields 6#3 0#3 path a b c
  | .aluF6S1 path a b c => aluFields 6#3 1#3 path a b c
  | .aluF6S2 path a b c => aluFields 6#3 2#3 path a b c
  | .aluF6S3 path a b c => aluFields 6#3 3#3 path a b c
  | .aluF6S4 path a b c => aluFields 6#3 4#3 path a b c
  | .aluF6S5 path a b c => aluFields 6#3 5#3 path a b c
  | .aluF6S6 path a b c => aluFields 6#3 6#3 path a b c
  | .aluF6S7 path a b c => aluFields 6#3 7#3 path a b c
  | .aluF7S0 path a b c => aluFields 7#3 0#3 path a b c
  | .aluF7S1 path a b c => aluFields 7#3 1#3 path a b c
  | .aluF7S2 path a b c => aluFields 7#3 2#3 path a b c
  | .aluF7S3 path a b c => aluFields 7#3 3#3 path a b c
  | .aluF7S4 path a b c => aluFields 7#3 4#3 path a b c
  | .aluF7S5 path a b c => aluFields 7#3 5#3 path a b c
  | .aluF7S6 path a b c => aluFields 7#3 6#3 path a b c
  | .aluF7S7 path a b c => aluFields 7#3 7#3 path a b c
  | .dst0 showY b => dstFields 0#3 showY b
  | .dst1 showY b => dstFields 1#3 showY b
  | .dst2 showY b => dstFields 2#3 showY b
  | .dst3 showY b => dstFields 3#3 showY b
  | .dst4 showY b => dstFields 4#3 showY b
  | .dst5 showY b => dstFields 5#3 showY b
  | .dst6 showY b => dstFields 6#3 showY b
  | .dst7 showY b => dstFields 7#3 showY b
  | .jmpNone => Fields.zero
  | .jmpUncond target => jumpFields false target
  | .jmpCond target => jumpFields true target
  | .flagH => { Fields.zero with H := true }
  | .flagL => { Fields.zero with L := true }
  | .flagS => { Fields.zero with S := true }
  | .mux f sh sl a b c => { Fields.zero with a := a, b := b, f := f, sh := sh, sl := sl, M := true, C := c }
  | .carry => { Fields.zero with C := true }
  | .altSelectHigh f ss a b c =>
      { Fields.zero with a := a, b := b, f := f, sh := 1#1 ++ ss, sl := 0#1 ++ ss, C := c }
  | .altSelectLow f ss a b c =>
      { Fields.zero with a := a, b := b, f := f, sh := 0#1 ++ ss, sl := 1#1 ++ ss, C := c }
  | .addrload jaddr bit6 jBit =>
      { Fields.zero with a := jaddr.extractLsb' 4 4, b := jaddr.extractLsb' 0 4, L := true,
                         dst := BitVec.ofBool bit6 ++ 1#2, J := jBit }

/-- A word in which the instruction acts: its own fields, every other bit 0. -/
def encode (i : Instr) : Word := encodeFields (instrFields i)

/-! ### One instruction for one word -/

/-- Why a number is not decoded. -/
inductive DecodeError where
  /-- The number needs more than 24 bits, so it is no word (R31: `0 <= word < 2^24`). Safe: no word of the
  machine is refused. -/
  | wordTooWide
  deriving DecidableEq, Repr

/-- A number as a word; the block's input port has 24 wires (R31, R80). -/
def wordOfNat (n : Nat) : Except DecodeError Word :=
  if n < 2 ^ 24 then .ok (BitVec.ofNat 24 n) else .error .wordTooWide

/-- Whether a word is a row's own canonical word, `encode` of it; never so for the format row, which every word
is (log entry 4). -/
def isOwnWord (w : Word) : Instr → Bool
  | .mw24 _ => false
  | i => encode i == w

/-- The one row that a word is asked for as: of the rows that act in it, the first whose own word it is, and else the
format row, which every word is (log entry 4). -/
def leadRow (w : Word) : Instr :=
  match (decodeRows w).find? (isOwnWord w) with
  | some i => i
  | none => .mw24 (decodeFields w)

/-- The instruction read from the low `nbits` bits of `w`, every other bit of the word being 0. -/
def decodeTableWord (nbits w : Nat) : Option Instr :=
  match wordOfNat (w % 2 ^ nbits) with
  | .ok x => some (leadRow x)
  | .error _ => none

end Sys2Proof
end

