-- ==== Sys2Proof/Machine/Text.lean ====
section
/-! DEFINITION. The text of the outputs (R116, R202, R214 to R218, R221) and the structured output (R200), as
functions of the block's wires. Much of the text is the spec's own decision (log entry 15). -/

namespace Sys2Proof.Machine

open Sys2Proof

/-! ### Numbers -/

/-- `dec(n)` for a register index, without a leading zero (00_scope.md section 5, R116, D6). -/
def dec (n : BitVec 4) : String :=
  ["0", "1", "2", "3", "4", "5", "6", "7", "8", "9", "10", "11", "12", "13", "14", "15"].getD n.toNat ""

/-- A lowercase hexadecimal digit (00_scope.md section 5). -/
def hexDigit (n : BitVec 4) : String :=
  ["0", "1", "2", "3", "4", "5", "6", "7", "8", "9", "a", "b", "c", "d", "e", "f"].getD n.toNat ""

/-- `hex2(n)`: exactly two lowercase hexadecimal digits (00_scope.md section 5, R217, D16). -/
def hex2 (n : Address) : String := hexDigit (n.extractLsb' 4 4) ++ hexDigit (n.extractLsb' 0 4)

/-! ### Expressions (R116) -/

/-- `text` of an operand (R116). -/
def symbolText : Symbol → String
  | .reg n => "R" ++ dec n
  | .q => "q"
  | .d => "d"
  | .zero => "0"

/-- A unary mark, attached to its operand (R116). -/
def unaryText : Unary → String
  | .plain => ""
  | .neg => "-"
  | .inv => "!"

/-- `text` of a term (R116). -/
def termText (t : Term Symbol) : String := unaryText t.mark ++ symbolText t.operand

/-- `text` of a binary operator (R116). -/
def opText : BinOp → String
  | .add => "+"
  | .sub => "-"
  | .or => "|"
  | .and => "&"
  | .xor => "^"

/-- `text` of a body, the operator between single spaces (R116, D5). -/
def bodyText : Body Symbol → String
  | .one t => termText t
  | .two l op r => termText l ++ " " ++ opText op ++ " " ++ termText r

/-- `text` of a resolved suffix (R116). -/
def adjustText : Adjust → String
  | .plus1 => " + 1"
  | .minus1 => " - 1"
  | .nothing => ""

/-- `text` of an instantiated expression (R116). -/
def exprText (e : Expr) : String := bodyText e.body ++ adjustText e.adjust

/-! ### Destination prefix (R202) -/

/-- `text` of a destination name; `RB` is the register numbered `b` (R202). -/
def destNameText (b : BitVec 4) : DestName → String
  | .y => "y"
  | .q => "q"
  | .rb => "R" ++ dec b

/-- `text` of a hint (R202). -/
def hintText : Hint → String
  | .none => ""
  | .half => "1/2*"
  | .double => "2*"

/-- `join(", ", names)` (R202). -/
def joinComma : List String → String
  | [] => ""
  | [x] => x
  | x :: rest => x ++ ", " ++ joinComma rest

/-- `prefix_text(dest, b)`: the names, an equals sign, the hint and the opening parenthesis; without names the
hint and the parenthesis alone (R202, D12). -/
def prefixText (t : DestTemplate) (b : BitVec 4) : String :=
  match t.names with
  | [] => hintText t.hint ++ "("
  | names => joinComma (names.map (destNameText b)) ++ " = " ++ hintText t.hint ++ "("

/-! ### The three columns -/

/-- An expression and, after a comma, its alternate (R212, R214, D13). -/
def exprsText (x : Expr) : Option Expr → String
  | none => exprText x
  | some y => exprText x ++ ", " ++ exprText y

/-- The multiplexer branch after its separator (R213, R214, D13). -/
def muxText : Option MuxBranch → String
  | none => ""
  | some m => " : " ++ exprsText m.first m.second

/-- The marker of an address-load word (R221, D11). -/
def addressLoadMarker : String := "address-load, no ALU operation"

/-- `tgt_text`: two hexadecimal digits, or two question marks when the word holds no address (R217, D15). -/
def targetText : Option Address → String
  | some t => hex2 t
  | none => "??"

/-- `jump_col` of a jump form (R216, R224 to R226). -/
def jumpText : JumpForm → String
  | .noJump => ""
  | .uncond t => "->" ++ targetText t
  | .cond t => "(->" ++ targetText t ++ ")"

/-- `flags_col` (R215). -/
def flagsCol (k : Block) : String := flagLetters k.fields.H k.fields.S k.fields.L

/-- `jump_col` (R216). -/
def jumpCol (k : Block) : String := jumpText k.jump

/-- `body_col`: the marker of an address-load word (R221), else prefix, expressions, branch and the closing
parenthesis (R214). Before the rows that drive the main lookup and the destination have acted there is no
body, which no presented word is left in (log entry 2). -/
def bodyCol (k : Block) : String :=
  if k.addrLoad then addressLoadMarker
  else match k.main, k.dest with
    | some m, some d => prefixText d.template d.b ++ exprsText m k.alt ++ muxText k.mux ++ ")"
    | _, _ => ""

/-- `line = flags_col ++ " " ++ jump_col ++ " " ++ body_col` (R218, D17). -/
def line (k : Block) : String := flagsCol k ++ " " ++ jumpCol k ++ " " ++ bodyCol k

/-- The `eos` output: the Field Decoder's, unchanged (R219). -/
def eos (k : Block) : Bool := k.fields.eos

/-! ### The structured output (R200) -/

/-- The body as structure, absent as in `bodyCol`. -/
def bodyForm? (k : Block) : Option BodyForm :=
  if k.addrLoad then some .addressLoad
  else match k.main, k.dest with
    | some m, some d => some (.transfer d.template m k.alt k.mux)
    | _, _ => none

/-- The structured output of the Assembler (R200), absent as its body is. -/
def output? (k : Block) : Option Output :=
  (bodyForm? k).map fun body =>
    { flagH := k.fields.H, flagS := k.fields.S, flagL := k.fields.L, jump := k.jump, body := body, eos := eos k }

end Sys2Proof.Machine
end

