-- ==== Sys2Proof/Machine/Present.lean ====
section
/-! DEFINITION. Presenting one word to the block: the word is put on the input port and the rows that act in it
run one after another (R57, R58; log entry 3). -/

namespace Sys2Proof.Machine

open Sys2Proof

/-- Run rows in order, stopping at the first that does not answer a next state. -/
def runRows : List Instr → State → Result
  | [], s => .next s
  | i :: rest, s =>
      match exec i s with
      | .next t => runRows rest t
      | .fault f => .fault f
      | .refused r => .refused r

/-- The word that the Listing Formatter takes next: the one at its address (R41). -/
def fetchWord (s : State) : Word := s.store.read s.addr

/-- One word presented and decoded: the input port driven, the wires cleared, and every row of the word run. -/
def decodeWord (w : Word) (s : State) : Result := runRows (decodeRows w) (presentWord w s)

end Sys2Proof.Machine
end

