-- ==== Sys2Proof/Machine/Listing.lean ====
section
/-! DEFINITION. The external Listing Formatter (R41): it presents the words of addresses 0 to 255 in ascending order
and makes one row of each, with a blank line after a row whose `eos` is set. -/

namespace Sys2Proof.Machine

open Sys2Proof

/-- The row of a word at an address, from the block's outputs: label, address and word are the Formatter's own
columns, the last three the block's (R41). -/
def rowOf (t : DispatchTable) (a : Address) (w : Word) (k : Block) : Row :=
  { label := t.label a, addr := a, word := w, flagsCol := flagsCol k, jumpCol := jumpCol k, bodyCol := bodyCol k,
    blankAfter := eos k }

/-- The Formatter's address moves up; after 255 the listing is finished (R41, R243). -/
def advance (s : State) : State :=
  { s with addr := s.addr + 1, phase := if s.addr = 255 then .done else s.phase }

/-- The row of the word just decoded is put out and the address moves up (R41). -/
def listWord (w : Word) (s : State) : State :=
  advance { s with listing := s.listing ++ [rowOf s.dispatch s.addr w s.block] }

/-- One turn of the Formatter: take the next word, let the block decode it, put out its row (R41). -/
def listNext (s : State) : Result :=
  match decodeWord (fetchWord s) s with
  | .next t => .next (listWord (fetchWord s) t)
  | .fault f => .fault f
  | .refused r => .refused r

/-- The listing as lines of text: each row by the open format of D30, and "a blank separator line when `eos` was
signaled" (R41; log entry 19). -/
def listingText : List Row → List String
  | [] => []
  | r :: rest =>
      Config.formatRow r.label r.addr r.word r.flagsCol r.jumpCol r.bodyCol
        :: ((if r.blankAfter then [""] else []) ++ listingText rest)

end Sys2Proof.Machine
end

