-- ==== Sys2Proof/Machine/WordStore.lean ====
section
/-! DEFINITION. The external Word Store (R31 to R33, R241 to R246, R262): it reads the seven sources once, in the
order of D24, and makes the 256 words and the dispatch table, or ends the run with a boundary error. -/

namespace Sys2Proof.Machine

open Sys2Proof

/-! ### Reading a source -/

/-- A source opened and read: an error if it cannot be opened (R241) or is short (R242); surplus bytes are ignored
(R242, D27; log entry 20). -/
def readSource (id : SourceId) (count : Nat) : Source → Except Fault (List Byte)
  | none => .error (.sourceOpenFailure id)
  | some bytes => if bytes.length < count then .error (.sourceReadFailure id) else .ok (bytes.take count)

/-- What the sources hold once all are read. -/
structure Images where
  nibbles : List (List Byte)
  dispatch : List Byte
  deriving DecidableEq, Repr

/-- The sources in order, nibble sources 0 to 5 and then the dispatch source, each opened and read before the next;
the first error met is the one reported (R246, D24; log entry 20). -/
def readSources (s : Sources) : Except Fault Images := do
  let b0 ← readSource (.nibble 0) Config.nibbleBytes s.n0
  let b1 ← readSource (.nibble 1) Config.nibbleBytes s.n1
  let b2 ← readSource (.nibble 2) Config.nibbleBytes s.n2
  let b3 ← readSource (.nibble 3) Config.nibbleBytes s.n3
  let b4 ← readSource (.nibble 4) Config.nibbleBytes s.n4
  let b5 ← readSource (.nibble 5) Config.nibbleBytes s.n5
  let d ← readSource .dispatch Config.dispatchBytes s.dispatch
  return { nibbles := [b0, b1, b2, b3, b4, b5], dispatch := d }

/-! ### Words -/

/-- `OR over i of (sourceByte_i << (4*i))`, from source `i` on (R32). -/
def orNibbles (i : Nat) : List Byte → Word
  | [] => 0
  | b :: rest => (b.setWidth 24 <<< (4 * i)) ||| orNibbles (i + 1) rest

/-- The word of one byte of each source, source 0 first: R32's formula where every byte is below 16, and a free value
where one is not (D20, C9; log entry 8). -/
def assembleWord (bytes : List Byte) : Word :=
  if bytes.all (fun b => decide (b.toNat < 16)) then orNibbles 0 bytes else Config.wideSourceWord bytes

/-- The word at an address of the store being built (R31, R32). -/
def wordAt (nibbles : List (List Byte)) (a : Nat) : Word := assembleWord (nibbles.map fun n => n.getD a 0)

/-- The 256 words of the store, in canonical form (R31). -/
def buildStore (nibbles : List (List Byte)) : Memory :=
  (List.range Config.storeWords).filterMap fun a =>
    if wordAt nibbles a = 0 then none else some (a, wordAt nibbles a)

/-! ### The dispatch table -/

/-- The dispatch entries of a source from code `i` on: the byte at index `i` is an address and its code is `i`; a
later code overwrites an earlier one (R33; log entry 26). -/
def addDispatch (i : Nat) (t : DispatchTable) : List Byte → DispatchTable
  | [] => t
  | b :: rest => addDispatch (i + 1) (tableSet b.toNat (BitVec.ofNat 5 i) t) rest

/-- The dispatch table of the 32-byte source (R33). -/
def buildDispatch (bytes : List Byte) : DispatchTable := addDispatch 0 [] bytes

/-! ### The load -/

/-- The Word Store's one action: all words and the dispatch table are made before any word is presented, or the run
ends with no word at all (R244, R262). -/
def loadStore (s : State) : Result :=
  match readSources s.sources with
  | .error f => boundaryError f
  | .ok im =>
      .next { s with phase := .listing, store := buildStore im.nibbles, dispatch := buildDispatch im.dispatch,
                     addr := 0, listing := [] }

end Sys2Proof.Machine
end

