-- ==== Sys2Proof/Machine/Step.lean ====
section
/-! DEFINITION. One step of the machine, in the order of R262, and where the next instruction is taken from. -/

namespace Sys2Proof.Machine

open Sys2Proof

/-- One step: the Word Store's load; one word presented, decoded and listed; or nothing, once all 256 rows are
listed (R262, R41, R243; log entries 5 and 9). -/
def step (s : State) : Host.Outcome State Fault Refusal :=
  match s.phase with
  | .loading => loadStore s
  | .listing => listNext s
  | .done => .next s

/-- The state in which the next step presents the instruction whose low `nbits` bits are `w`: the word stands in the
store at the Listing Formatter's address, and the run is in its listing phase, as after a load (log entry 5). -/
def State.withFetchWord (s : State) (nbits w : Nat) : State :=
  { s with phase := .listing, store := s.store.write s.addr (BitVec.ofNat 24 (w % 2 ^ nbits)) }

end Sys2Proof.Machine
end

