-- ==== Sys2Proof/Machine/Block.lean ====
section
/-! DEFINITION. The whole block as one function of the word, written from the spec's own whole-block algorithms:
the Field Decoder by shifts and masks (R98), the Assembler (R222) and its structured output (R200). The machine
does not call it: step runs the rows of the word one by one, and that the two agree is a statement. -/

namespace Sys2Proof.Machine

open Sys2Proof

/-- The sixteen outputs of the Field Decoder as numbers and booleans (R80, R98). -/
structure Decoded where
  a : Nat
  b : Nat
  f : Nat
  sh : Nat
  sl : Nat
  dst : Nat
  H : Bool
  L : Bool
  S : Bool
  J : Bool
  M : Bool
  C : Bool
  jaddr : Nat
  jvalid : Bool
  eos : Bool
  showY : Bool
  deriving DecidableEq, Repr

/-- `(word >> i) & 1`, read as a boolean (R98). -/
def shiftBit (w i : Nat) : Bool := (w >>> i) &&& 1 == 1

/-- `decode(word)` of R98, line by line, on the word as an unsigned number. -/
def decodeByShifts (w : Nat) : Decoded :=
  let r := (w >>> 12) &&& 0xB
  let h := shiftBit w 11
  let l := shiftBit w 7
  let s := shiftBit w 3
  let j := shiftBit w 2
  { a := (w >>> 20) &&& 0xF
    b := (w >>> 16) &&& 0xF
    f := (w >>> 8) &&& 0x7
    sh := if r > 7 then r - 4 else r
    sl := (w >>> 12) &&& 0x7
    dst := (w >>> 4) &&& 0x7
    H := h
    L := l
    S := s
    J := j
    M := shiftBit w 1
    C := shiftBit w 0
    jaddr := (w >>> 16) &&& 0xFF
    jvalid := l
    eos := h || (j && !s)
    showY := h || (j && s) }

/-- The Field Decoder's outputs of the model in the same form. -/
def decodedOf (x : Fields) : Decoded :=
  { a := x.a.toNat, b := x.b.toNat, f := x.f.toNat, sh := x.sh.toNat, sl := x.sl.toNat, dst := x.dst.toNat,
    H := x.H, L := x.L, S := x.S, J := x.J, M := x.M, C := x.C,
    jaddr := x.jaddr.toNat, jvalid := x.jvalid, eos := x.eos, showY := x.showY }

/-- What `assemble` of R222 returns. -/
structure Assembled where
  flagsCol : String
  jumpCol : String
  bodyCol : String
  line : String
  eos : Bool
  deriving DecidableEq, Repr

/-- `tgt_text` of R222. -/
def assembleTarget (x : Fields) : String := if x.L then hex2 x.jaddr else "??"

/-- `jump_col` of R222. -/
def assembleJump (x : Fields) : String :=
  if x.J then (if x.S then "(->" ++ assembleTarget x ++ ")" else "->" ++ assembleTarget x) else ""

/-- `body_col` of R222. -/
def assembleBody (w : Word) (x : Fields) : String :=
  if isAddrLoad w then addressLoadMarker
  else
    prefixText (destTable x.showY x.dst) x.b
      ++ exprText (render x.f x.sh x.a x.b x.C)
      ++ (if x.sh ≠ x.sl then ", " ++ exprText (render x.f x.sl x.a x.b x.C) else "")
      ++ (if x.M then
            " : " ++ exprText (render x.f (muxSelect x.sh) x.a x.b x.C)
              ++ (if x.sh ≠ x.sl then ", " ++ exprText (render x.f (muxSelect x.sl) x.a x.b x.C) else "")
          else "")
      ++ ")"

/-- `assemble(word)` of R222. -/
def assemble (w : Word) : Assembled :=
  let x := decodeFields w
  let flags := (if x.H then "H" else " ") ++ (if x.S then "S" else " ") ++ (if x.L then "L" else " ")
  let jump := assembleJump x
  let body := assembleBody w x
  { flagsCol := flags, jumpCol := jump, bodyCol := body, line := flags ++ " " ++ jump ++ " " ++ body, eos := x.eos }

/-- The outputs that the block's wires show, in the form of `Assembled`. -/
def assembledOf (k : Block) : Assembled :=
  { flagsCol := flagsCol k, jumpCol := jumpCol k, bodyCol := bodyCol k, line := line k, eos := eos k }

/-- The structured jump of a word (R216, R217, R224 to R226). -/
def jumpOf (x : Fields) : JumpForm :=
  if x.J then (if x.S then .cond x.jumpAddress else .uncond x.jumpAddress) else .noJump

/-- The structured body of a word (R200, R202, R211 to R213, R221). -/
def bodyOf (w : Word) (x : Fields) : BodyForm :=
  if isAddrLoad w then .addressLoad
  else .transfer (destTable x.showY x.dst) (render x.f x.sh x.a x.b x.C)
    (if x.sh ≠ x.sl then some (render x.f x.sl x.a x.b x.C) else none)
    (if x.M then
      some { first := render x.f (muxSelect x.sh) x.a x.b x.C
             second := if x.sh ≠ x.sl then some (render x.f (muxSelect x.sl) x.a x.b x.C) else none }
     else none)

/-- The structured output of a word (R200). -/
def outputOf (w : Word) : Output :=
  let x := decodeFields w
  { flagH := x.H, flagS := x.S, flagL := x.L, jump := jumpOf x, body := bodyOf w x, eos := x.eos }

/-- The select codes of the lookups whose results reach the output, in the order of their texts (R220, R267, R2). -/
def lookupCodes (w : Word) : List (BitVec 3) :=
  let x := decodeFields w
  if isAddrLoad w then []
  else [x.sh] ++ (if x.sh ≠ x.sl then [x.sl] else [])
    ++ (if x.M then [muxSelect x.sh] ++ (if x.sh ≠ x.sl then [muxSelect x.sl] else []) else [])

end Sys2Proof.Machine
end

