-- ==== Sys2Proof/Safety.lean ====
section
/-! DEFINITION. What counts as a sound state, in the terms the statements use: the canonical forms, the block's
outputs agreeing with the word on its input port, and the listing agreeing with the store; and which wires a row
drives. -/

namespace Sys2Proof.Machine

open Sys2Proof

/-- Store and dispatch table are in canonical form (R31, R33, R36). -/
abbrev TablesSound (s : State) : Prop := s.store.wf ∧ DispatchTable.wf s.dispatch

/-- Every output of the block is the function of the presented word that the whole-block algorithms give (R98, R200,
R222, R260). With no word presented it says nothing (D2). -/
def BlockSound (k : Block) : Prop :=
  ∀ w, k.word = some w →
    decodedOf k.fields = decodeByShifts w.toNat ∧ assembledOf k = assemble w ∧ output? k = some (outputOf w)

/-- The row that the listing shows for an address (R41), by the whole-block function of its word. -/
def rowFor (store : Memory) (t : DispatchTable) (a : Address) : Row :=
  { label := t.label a, addr := a, word := store.read a,
    flagsCol := (assemble (store.read a)).flagsCol, jumpCol := (assemble (store.read a)).jumpCol,
    bodyCol := (assemble (store.read a)).bodyCol, blankAfter := (assemble (store.read a)).eos }

/-- The rows of the first `n` addresses, in ascending order (R41). -/
def rowsUpTo (store : Memory) (t : DispatchTable) (n : Nat) : List Row :=
  (List.range n).map fun a => rowFor store t (BitVec.ofNat 8 a)

/-- How many rows a run has put out, by its phase and address. -/
def rowsDone (s : State) : Nat :=
  match s.phase with
  | .loading => 0
  | .listing => s.addr.toNat
  | .done => 256

/-- The listing holds exactly the rows of the addresses already walked: "no partial listing" before the load (R244),
all 256 rows at the end (R41, R243). -/
def ListingSound (s : State) : Prop := s.listing = rowsUpTo s.store s.dispatch (rowsDone s)

/-- The invariant of a run. -/
def Inv (s : State) : Prop := TablesSound s ∧ BlockSound s.block ∧ ListingSound s

/-- The part of a state that lies outside the block (R30): what no row may change. -/
def sameEdge (s t : State) : Prop :=
  t.phase = s.phase ∧ t.sources = s.sources ∧ t.store = s.store ∧ t.dispatch = s.dispatch ∧ t.addr = s.addr
    ∧ t.listing = s.listing

/-- The wires of the block that rows drive. -/
inductive Wire where
  | fields | main | alt | mux | dest | addrLoad | jump
  deriving DecidableEq, Repr

/-- The wires that a row drives: the format, the flag bits, a jump and MUX drive Field Decoder outputs; an ALU row
the lookup of its path; ALT_SELECT the alternate; MUX the branch; a destination row the template (R57, R58). -/
def drives : Instr → List Wire
  | .mw24 _ => [.fields]
  | .aluF0S0 path _ _ _ => match path with | .high => [.main] | .low => [.alt]
  | .aluF0S1 path _ _ _ => match path with | .high => [.main] | .low => [.alt]
  | .aluF0S2 path _ _ _ => match path with | .high => [.main] | .low => [.alt]
  | .aluF0S3 path _ _ _ => match path with | .high => [.main] | .low => [.alt]
  | .aluF0S4 path _ _ _ => match path with | .high => [.main] | .low => [.alt]
  | .aluF0S5 path _ _ _ => match path with | .high => [.main] | .low => [.alt]
  | .aluF0S6 path _ _ _ => match path with | .high => [.main] | .low => [.alt]
  | .aluF0S7 path _ _ _ => match path with | .high => [.main] | .low => [.alt]
  | .aluF1S0 path _ _ _ => match path with | .high => [.main] | .low => [.alt]
  | .aluF1S1 path _ _ _ => match path with | .high => [.main] | .low => [.alt]
  | .aluF1S2 path _ _ _ => match path with | .high => [.main] | .low => [.alt]
  | .aluF1S3 path _ _ _ => match path with | .high => [.main] | .low => [.alt]
  | .aluF1S4 path _ _ _ => match path with | .high => [.main] | .low => [.alt]
  | .aluF1S5 path _ _ _ => match path with | .high => [.main] | .low => [.alt]
  | .aluF1S6 path _ _ _ => match path with | .high => [.main] | .low => [.alt]
  | .aluF1S7 path _ _ _ => match path with | .high => [.main] | .low => [.alt]
  | .aluF2S0 path _ _ _ => match path with | .high => [.main] | .low => [.alt]
  | .aluF2S1 path _ _ _ => match path with | .high => [.main] | .low => [.alt]
  | .aluF2S2 path _ _ _ => match path with | .high => [.main] | .low => [.alt]
  | .aluF2S3 path _ _ _ => match path with | .high => [.main] | .low => [.alt]
  | .aluF2S4 path _ _ _ => match path with | .high => [.main] | .low => [.alt]
  | .aluF2S5 path _ _ _ => match path with | .high => [.main] | .low => [.alt]
  | .aluF2S6 path _ _ _ => match path with | .high => [.main] | .low => [.alt]
  | .aluF2S7 path _ _ _ => match path with | .high => [.main] | .low => [.alt]
  | .aluF3S0 path _ _ _ => match path with | .high => [.main] | .low => [.alt]
  | .aluF3S1 path _ _ _ => match path with | .high => [.main] | .low => [.alt]
  | .aluF3S2 path _ _ _ => match path with | .high => [.main] | .low => [.alt]
  | .aluF3S3 path _ _ _ => match path with | .high => [.main] | .low => [.alt]
  | .aluF3S4 path _ _ _ => match path with | .high => [.main] | .low => [.alt]
  | .aluF3S5 path _ _ _ => match path with | .high => [.main] | .low => [.alt]
  | .aluF3S6 path _ _ _ => match path with | .high => [.main] | .low => [.alt]
  | .aluF3S7 path _ _ _ => match path with | .high => [.main] | .low => [.alt]
  | .aluF4S0 path _ _ _ => match path with | .high => [.main] | .low => [.alt]
  | .aluF4S1 path _ _ _ => match path with | .high => [.main] | .low => [.alt]
  | .aluF4S2 path _ _ _ => match path with | .high => [.main] | .low => [.alt]
  | .aluF4S3 path _ _ _ => match path with | .high => [.main] | .low => [.alt]
  | .aluF4S4 path _ _ _ => match path with | .high => [.main] | .low => [.alt]
  | .aluF4S5 path _ _ _ => match path with | .high => [.main] | .low => [.alt]
  | .aluF4S6 path _ _ _ => match path with | .high => [.main] | .low => [.alt]
  | .aluF4S7 path _ _ _ => match path with | .high => [.main] | .low => [.alt]
  | .aluF5S0 path _ _ _ => match path with | .high => [.main] | .low => [.alt]
  | .aluF5S1 path _ _ _ => match path with | .high => [.main] | .low => [.alt]
  | .aluF5S2 path _ _ _ => match path with | .high => [.main] | .low => [.alt]
  | .aluF5S3 path _ _ _ => match path with | .high => [.main] | .low => [.alt]
  | .aluF5S4 path _ _ _ => match path with | .high => [.main] | .low => [.alt]
  | .aluF5S5 path _ _ _ => match path with | .high => [.main] | .low => [.alt]
  | .aluF5S6 path _ _ _ => match path with | .high => [.main] | .low => [.alt]
  | .aluF5S7 path _ _ _ => match path with | .high => [.main] | .low => [.alt]
  | .aluF6S0 path _ _ _ => match path with | .high => [.main] | .low => [.alt]
  | .aluF6S1 path _ _ _ => match path with | .high => [.main] | .low => [.alt]
  | .aluF6S2 path _ _ _ => match path with | .high => [.main] | .low => [.alt]
  | .aluF6S3 path _ _ _ => match path with | .high => [.main] | .low => [.alt]
  | .aluF6S4 path _ _ _ => match path with | .high => [.main] | .low => [.alt]
  | .aluF6S5 path _ _ _ => match path with | .high => [.main] | .low => [.alt]
  | .aluF6S6 path _ _ _ => match path with | .high => [.main] | .low => [.alt]
  | .aluF6S7 path _ _ _ => match path with | .high => [.main] | .low => [.alt]
  | .aluF7S0 path _ _ _ => match path with | .high => [.main] | .low => [.alt]
  | .aluF7S1 path _ _ _ => match path with | .high => [.main] | .low => [.alt]
  | .aluF7S2 path _ _ _ => match path with | .high => [.main] | .low => [.alt]
  | .aluF7S3 path _ _ _ => match path with | .high => [.main] | .low => [.alt]
  | .aluF7S4 path _ _ _ => match path with | .high => [.main] | .low => [.alt]
  | .aluF7S5 path _ _ _ => match path with | .high => [.main] | .low => [.alt]
  | .aluF7S6 path _ _ _ => match path with | .high => [.main] | .low => [.alt]
  | .aluF7S7 path _ _ _ => match path with | .high => [.main] | .low => [.alt]
  | .dst0 _ _ => [.dest]
  | .dst1 _ _ => [.dest]
  | .dst2 _ _ => [.dest]
  | .dst3 _ _ => [.dest]
  | .dst4 _ _ => [.dest]
  | .dst5 _ _ => [.dest]
  | .dst6 _ _ => [.dest]
  | .dst7 _ _ => [.dest]
  | .jmpNone => [.fields, .jump]
  | .jmpUncond _ => [.fields, .jump]
  | .jmpCond _ => [.fields, .jump]
  | .flagH => [.fields]
  | .flagL => [.fields]
  | .flagS => [.fields]
  | .mux _ _ _ _ _ _ => [.fields, .mux]
  | .carry => [.fields]
  | .altSelectHigh _ _ _ _ _ => [.alt]
  | .altSelectLow _ _ _ _ _ => [.alt]
  | .addrload _ _ _ => [.addrLoad]

/-- The wire is the same in both states. -/
def sameWire (s t : State) : Wire → Prop
  | .fields => t.block.fields = s.block.fields
  | .main => t.block.main = s.block.main
  | .alt => t.block.alt = s.block.alt
  | .mux => t.block.mux = s.block.mux
  | .dest => t.block.dest = s.block.dest
  | .addrLoad => t.block.addrLoad = s.block.addrLoad
  | .jump => t.block.jump = s.block.jump

/-- The expressions a body shows, in the order of their texts (R214, R267). -/
def shownExprs : BodyForm → List Expr
  | .addressLoad => []
  | .transfer _ main alt mux =>
      [main] ++ alt.toList ++ (match mux with | none => [] | some m => [m.first] ++ m.second.toList)

/-- The first source that fails, in the order given: cannot be opened, or short (R241, R242, R246). -/
def firstFailure : List (SourceId × Nat × Source) → Option Fault
  | [] => none
  | (id, _, none) :: _ => some (.sourceOpenFailure id)
  | (id, count, some bytes) :: rest =>
      if bytes.length < count then some (.sourceReadFailure id) else firstFailure rest

/-- The sources in the order they are taken, with the byte counts expected of them (R242, D24). -/
def sourceOrder (s : Sources) : List (SourceId × Nat × Source) :=
  [(.nibble 0, 256, s.n0), (.nibble 1, 256, s.n1), (.nibble 2, 256, s.n2), (.nibble 3, 256, s.n3),
   (.nibble 4, 256, s.n4), (.nibble 5, 256, s.n5), (.dispatch, 32, s.dispatch)]

/-- An ALU row does what its entry rule says: the ROM holds the template at the rule's index, the meaning drives the
lookup of its path with the rule's expression and changes nothing else, and the expression prints as the rule's
text (R111, R115, R116). -/
def aluResult (i : Instr) (idx : Nat) (t : Template) (path : SelPath) (e : Expr) (text : String) (s : State) : Prop :=
  romTable[idx]? = some t ∧ exec i s = .next (driveLookup path e s) ∧ exprText e = text

/-- A destination row does what its rule says: it drives the template and the index `b`, changes nothing else, and the
prefix prints as the rule's text (R202). -/
def dstResult (i : Instr) (dst : BitVec 3) (showY : Bool) (b : BitVec 4) (t : DestTemplate) (text : String) (s : State) :
    Prop :=
  destTable showY dst = t ∧ exec i s = .next (driveDest ⟨t, b⟩ s) ∧ prefixText t b = text

/-- Whether a body template names register `a`, respectively `b` (R115). -/
def mentions (o : Opnd) : Body Opnd → Bool
  | .one t => t.operand == o
  | .two l _ r => l.operand == o || r.operand == o

end Sys2Proof.Machine
end

