-- ==== Sys2Proof/Certificates/Slice0/Obligations.lean ====
section
/-! DEFINITION. The statements for the provers, from the rules of spec/. A statement whose clauses rest on a decision or an
inference that the spec marks as its own, or on a choice of the model, says so in its docstring and names the log
entry. -/

open Sys2Proof Sys2Proof.Machine

/-- R98: the whole Field Decoder as one function; the meaning of MW24 with its frame. -/
def Obligations.FieldDecoderIsShiftsAndMasks : Prop :=
  (∀ (x : Fields) (s : State), exec (.mw24 x) s = .next (driveFields x s)) ∧
  (∀ w : Word, decodedOf (decodeFields w) = decodeByShifts w.toNat) ∧
  decodeByShifts 0x35A2CD =
    { a := 3, b := 5, f := 2, sh := 6, sl := 2, dst := 4, H := false, L := true, S := true, J := true, M := false,
      C := true, jaddr := 0x35, jvalid := true, eos := false, showY := true }

/-- 40_field_decoder.md section 2 (R84): the high-select code by mask and fold; bit 14 has no influence, and every value is reached. That it is bits 15, 13 and 12 read as one number is an inference the spec marks as derived there (from R54). -/
def Obligations.HighSelectIsMaskAndFold : Prop :=
  (∀ w : Word, (decodeFields w).sh.toNat =
      (if (w.toNat >>> 12) &&& 0b1011 ≤ 7 then (w.toNat >>> 12) &&& 0b1011
       else ((w.toNat >>> 12) &&& 0b1011) - 4)) ∧
  (∀ w : Word, (decodeFields w).sh = BitVec.ofBool (w.getLsbD 15) ++ w.extractLsb' 12 2) ∧
  (∀ w : Word, (decodeFields (w ^^^ 0x004000#24)).sh = (decodeFields w).sh) ∧
  (∀ v : BitVec 3, ∃ w : Word, (decodeFields w).sh = v)

/-- 40_field_decoder.md section 6, an inference the spec marks as derived: the relation of the two select codes. -/
def Obligations.SelectCodesShareTheirLowBits : Prop :=
  ∀ w : Word,
    (decodeFields w).sh.setWidth 2 = w.extractLsb' 12 2 ∧ (decodeFields w).sl.setWidth 2 = w.extractLsb' 12 2 ∧
    ((decodeFields w).sh ≠ (decodeFields w).sl ↔ w.getLsbD 15 ≠ w.getLsbD 14) ∧
    ((decodeFields w).sh ≠ (decodeFields w).sl → (decodeFields w).sl = (decodeFields w).sh ^^^ 4#3)

/-- 40_field_decoder.md section 5 (R94, R95): the two derived booleans, and the table of all eight combinations. That with `H` clear they are never both true and with `H` set both are is an inference the spec marks as derived from the table. -/
def Obligations.EosAndShowYOfEveryWord : Prop :=
  (∀ w : Word,
    (decodeFields w).eos = (w.getLsbD 11 || (w.getLsbD 2 && !w.getLsbD 3)) ∧
    (decodeFields w).showY = (w.getLsbD 11 || (w.getLsbD 2 && w.getLsbD 3)) ∧
    (w.getLsbD 11 = false → ¬((decodeFields w).eos = true ∧ (decodeFields w).showY = true)) ∧
    (w.getLsbD 11 = true → (decodeFields w).eos = true ∧ (decodeFields w).showY = true)) ∧
  [(false, false, false), (false, false, true), (false, true, false), (false, true, true),
   (true, false, false), (true, false, true), (true, true, false), (true, true, true)].map
      (fun t => (eosOf t.1 t.2.1 t.2.2, showYOf t.1 t.2.1 t.2.2)) =
    [(false, false), (false, false), (true, false), (false, true), (true, true), (true, true), (true, true), (true, true)]

/-- R93: jaddr, jvalid and the optional jump address. -/
def Obligations.JumpAddressIsPresentExactlyWhenLIsSet : Prop :=
  ∀ w : Word,
    (decodeFields w).jaddr = w.extractLsb' 16 8 ∧
    (decodeFields w).jaddr.toNat = 16 * (decodeFields w).a.toNat + (decodeFields w).b.toNat ∧
    (decodeFields w).jvalid = w.getLsbD 7 ∧
    (decodeFields w).jumpAddress = (if w.getLsbD 7 then some (w.extractLsb' 16 8) else none)

/-- 30_encoding.md section 1 (every bit belongs to a field, an inference the spec marks as derived): decode and encode of the format agree both ways. -/
def Obligations.FieldsAndWordsAreInBijection : Prop :=
  (∀ w : Word, encodeFields (decodeFields w) = w) ∧
  (∀ x : Fields, selectsAgree x.sh x.sl = true → decodeFields (encodeFields x) = x)

/-- 30_encoding.md section 3. Decode and encode agree, row by row; the encoder is the model's choice (log entry 24). -/
def Obligations.EveryWellFormedRowIsDecodedFromItsWord : Prop :=
  ∀ i : Instr, WellFormed i = true → i ∈ decodeRows (encode i)

/-- 30_encoding.md section 3 and the opcode table: no row is decoded from a word that its pattern does not match. -/
def Obligations.DecodedRowsMatchTheOpcodeTable : Prop :=
  ∀ (w : Word) (i : Instr), i ∈ decodeRows w → WellFormed i = true ∧ w &&& rowMask i = rowMatch i

/-- 43_assembler.md section 2. The sentinel's value is the spec's decision D9 (log entry 11), that FLAG_L and the jump row act in an address-load word its decision D10 (log entry 12). The order of the list is the model's (log entry 3). -/
def Obligations.AddressLoadWordsAndTheirRows : Prop :=
  (∀ w : Word, isAddrLoad w = true ↔ w.setWidth 16 ∈ [0x0090#16, 0x0094#16, 0x00D0#16, 0x00D4#16]) ∧
  (∀ w : Word, isAddrLoad w = true →
    (decodeFields w).sh = 0 ∧ (decodeFields w).sl = 0 ∧ (decodeFields w).H = false ∧ (decodeFields w).f = 0 ∧
    (decodeFields w).L = true ∧ ((decodeFields w).dst = 1 ∨ (decodeFields w).dst = 5) ∧
    (decodeFields w).S = false ∧ (decodeFields w).M = false ∧ (decodeFields w).C = false ∧
    decodeRows w = [.mw24 (decodeFields w), .flagL,
      .addrload (w.extractLsb' 16 8) (w.getLsbD 6) (w.getLsbD 2),
      if w.getLsbD 2 then .jmpUncond (some (w.extractLsb' 16 8)) else .jmpNone])

/-- 30_encoding.md section 3. Which row leads is the model's choice (log entry 4); that it acts in the word is what is stated. -/
def Obligations.LeadRowActsInItsWord : Prop :=
  (∀ w : Word, leadRow w ∈ decodeRows w) ∧
  (∀ n : Nat, n < 2 ^ 24 → decodeTableWord 24 n = some (leadRow (BitVec.ofNat 24 n)))

/-- 20_memory.md section 2: any value 0 <= word < 2^24 is a legal input. That a larger number is refused, by the name wordTooWide, is the model's choice (log entry 32): the spec gives the block a 24-bit port and no refusal. -/
def Obligations.OnlyNumbersOf24BitsAreWords : Prop :=
  ∀ n : Nat, (n < 2 ^ 24 → wordOfNat n = .ok (BitVec.ofNat 24 n)) ∧ (2 ^ 24 ≤ n → wordOfNat n = .error .wordTooWide)

/-- 95_test_vectors.md section 2: three words with their rows, written out from the field table. The order of the lists is the model's (log entry 3); that 0x2A0094 is an address-load word is the spec's decision D9 (log entry 11), that FLAG_L and the jump row act in it its decision D10 (log entry 12). -/
def Obligations.WrittenOutWordsDecodeToTheirRows : Prop :=
  decodeRows 0x350001#24 =
    [.mw24 { Fields.zero with a := 3, b := 5, C := true }, .carry, .aluF0S0 .high 3 5 true, .dst0 false 5, .jmpNone] ∧
  decodeRows 0x35A2CD#24 =
    [.mw24 { a := 3, b := 5, f := 2, sh := 6, sl := 2, dst := 4, H := false, L := true, S := true, J := true,
             M := false, C := true },
     .carry, .flagL, .flagS, .aluF2S6 .high 3 5 true, .altSelectHigh 2 2 3 5 true, .aluF2S2 .low 3 5 true,
     .dst4 true 5, .jmpCond (some 0x35)] ∧
  decodeRows 0x2A0094#24 =
    [.mw24 { Fields.zero with a := 2, b := 10, dst := 1, L := true, J := true }, .flagL, .addrload 0x2A false true,
     .jmpUncond (some 0x2A)]

/-- R120, R121, R125, R126: the two-operand rows of the add function. Index and text are the Encoding and Pseudocode lines of these rules themselves; the general rules R111 and R116 carry the decisions D3, D5 and D6 (log entries 15, 28). -/
def Obligations.AluAddTwoOperandRows : Prop :=
  ∀ (path : SelPath) (a b : BitVec 4) (c : Bool) (s : State),
    aluResult (.aluF0S0 path a b c) 0 ⟨.two ⟨.plain, .ra⟩ .add ⟨.plain, .q⟩, .sfxPc⟩ path
      ⟨.two ⟨.plain, .reg a⟩ .add ⟨.plain, .q⟩, if c then .plus1 else .nothing⟩ ("R" ++ dec a ++ " + q" ++ (if c then " + 1" else "")) s ∧
    aluResult (.aluF0S1 path a b c) 1 ⟨.two ⟨.plain, .ra⟩ .add ⟨.plain, .rb⟩, .sfxPc⟩ path
      ⟨.two ⟨.plain, .reg a⟩ .add ⟨.plain, .reg b⟩, if c then .plus1 else .nothing⟩ ("R" ++ dec a ++ " + R" ++ dec b ++ (if c then " + 1" else "")) s ∧
    aluResult (.aluF0S5 path a b c) 5 ⟨.two ⟨.plain, .d⟩ .add ⟨.plain, .ra⟩, .sfxPc⟩ path
      ⟨.two ⟨.plain, .d⟩ .add ⟨.plain, .reg a⟩, if c then .plus1 else .nothing⟩ ("d + R" ++ dec a ++ (if c then " + 1" else "")) s ∧
    aluResult (.aluF0S6 path a b c) 6 ⟨.two ⟨.plain, .d⟩ .add ⟨.plain, .q⟩, .sfxPc⟩ path
      ⟨.two ⟨.plain, .d⟩ .add ⟨.plain, .q⟩, if c then .plus1 else .nothing⟩ ("d + q" ++ (if c then " + 1" else "")) s

/-- R128, R129, R133, R134: the two-operand rows of the first subtraction. Index and text are the Encoding and Pseudocode lines of these rules themselves; the general rules R111 and R116 carry the decisions D3, D5 and D6 (log entries 15, 28). -/
def Obligations.AluSubVar1TwoOperandRows : Prop :=
  ∀ (path : SelPath) (a b : BitVec 4) (c : Bool) (s : State),
    aluResult (.aluF1S0 path a b c) 8 ⟨.two ⟨.plain, .q⟩ .sub ⟨.plain, .ra⟩, .sfxMc⟩ path
      ⟨.two ⟨.plain, .q⟩ .sub ⟨.plain, .reg a⟩, if c then .nothing else .minus1⟩ ("q - R" ++ dec a ++ (if c then "" else " - 1")) s ∧
    aluResult (.aluF1S1 path a b c) 9 ⟨.two ⟨.plain, .rb⟩ .sub ⟨.plain, .ra⟩, .sfxMc⟩ path
      ⟨.two ⟨.plain, .reg b⟩ .sub ⟨.plain, .reg a⟩, if c then .nothing else .minus1⟩ ("R" ++ dec b ++ " - R" ++ dec a ++ (if c then "" else " - 1")) s ∧
    aluResult (.aluF1S5 path a b c) 13 ⟨.two ⟨.plain, .ra⟩ .sub ⟨.plain, .d⟩, .sfxMc⟩ path
      ⟨.two ⟨.plain, .reg a⟩ .sub ⟨.plain, .d⟩, if c then .nothing else .minus1⟩ ("R" ++ dec a ++ " - d" ++ (if c then "" else " - 1")) s ∧
    aluResult (.aluF1S6 path a b c) 14 ⟨.two ⟨.plain, .q⟩ .sub ⟨.plain, .d⟩, .sfxMc⟩ path
      ⟨.two ⟨.plain, .q⟩ .sub ⟨.plain, .d⟩, if c then .nothing else .minus1⟩ ("q - d" ++ (if c then "" else " - 1")) s

/-- R136, R137, R141, R142: the two-operand rows of the second subtraction. Index and text are the Encoding and Pseudocode lines of these rules themselves; the general rules R111 and R116 carry the decisions D3, D5 and D6 (log entries 15, 28). -/
def Obligations.AluSubVar2TwoOperandRows : Prop :=
  ∀ (path : SelPath) (a b : BitVec 4) (c : Bool) (s : State),
    aluResult (.aluF2S0 path a b c) 16 ⟨.two ⟨.plain, .ra⟩ .sub ⟨.plain, .q⟩, .sfxMc⟩ path
      ⟨.two ⟨.plain, .reg a⟩ .sub ⟨.plain, .q⟩, if c then .nothing else .minus1⟩ ("R" ++ dec a ++ " - q" ++ (if c then "" else " - 1")) s ∧
    aluResult (.aluF2S1 path a b c) 17 ⟨.two ⟨.plain, .ra⟩ .sub ⟨.plain, .rb⟩, .sfxMc⟩ path
      ⟨.two ⟨.plain, .reg a⟩ .sub ⟨.plain, .reg b⟩, if c then .nothing else .minus1⟩ ("R" ++ dec a ++ " - R" ++ dec b ++ (if c then "" else " - 1")) s ∧
    aluResult (.aluF2S5 path a b c) 21 ⟨.two ⟨.plain, .d⟩ .sub ⟨.plain, .ra⟩, .sfxMc⟩ path
      ⟨.two ⟨.plain, .d⟩ .sub ⟨.plain, .reg a⟩, if c then .nothing else .minus1⟩ ("d - R" ++ dec a ++ (if c then "" else " - 1")) s ∧
    aluResult (.aluF2S6 path a b c) 22 ⟨.two ⟨.plain, .d⟩ .sub ⟨.plain, .q⟩, .sfxMc⟩ path
      ⟨.two ⟨.plain, .d⟩ .sub ⟨.plain, .q⟩, if c then .nothing else .minus1⟩ ("d - q" ++ (if c then "" else " - 1")) s

/-- 41_alu_rom_arith.md sections 2 to 4. That the suffix applies to a single operand is the spec's decision D7 (log entry 13). -/
def Obligations.AluArithmeticSingleOperandRows : Prop :=
  ∀ (path : SelPath) (a b : BitVec 4) (c : Bool) (s : State),
    aluResult (.aluF0S2 path a b c) 2 ⟨.one ⟨.plain, .q⟩, .sfxPc⟩ path
      ⟨.one ⟨.plain, .q⟩, if c then .plus1 else .nothing⟩ ("q" ++ (if c then " + 1" else "")) s ∧
    aluResult (.aluF0S3 path a b c) 3 ⟨.one ⟨.plain, .rb⟩, .sfxPc⟩ path
      ⟨.one ⟨.plain, .reg b⟩, if c then .plus1 else .nothing⟩ ("R" ++ dec b ++ (if c then " + 1" else "")) s ∧
    aluResult (.aluF0S4 path a b c) 4 ⟨.one ⟨.plain, .ra⟩, .sfxPc⟩ path
      ⟨.one ⟨.plain, .reg a⟩, if c then .plus1 else .nothing⟩ ("R" ++ dec a ++ (if c then " + 1" else "")) s ∧
    aluResult (.aluF0S7 path a b c) 7 ⟨.one ⟨.plain, .d⟩, .sfxPc⟩ path
      ⟨.one ⟨.plain, .d⟩, if c then .plus1 else .nothing⟩ ("d" ++ (if c then " + 1" else "")) s ∧
    aluResult (.aluF1S2 path a b c) 10 ⟨.one ⟨.plain, .q⟩, .sfxMc⟩ path
      ⟨.one ⟨.plain, .q⟩, if c then .nothing else .minus1⟩ ("q" ++ (if c then "" else " - 1")) s ∧
    aluResult (.aluF1S3 path a b c) 11 ⟨.one ⟨.plain, .rb⟩, .sfxMc⟩ path
      ⟨.one ⟨.plain, .reg b⟩, if c then .nothing else .minus1⟩ ("R" ++ dec b ++ (if c then "" else " - 1")) s ∧
    aluResult (.aluF1S4 path a b c) 12 ⟨.one ⟨.plain, .ra⟩, .sfxMc⟩ path
      ⟨.one ⟨.plain, .reg a⟩, if c then .nothing else .minus1⟩ ("R" ++ dec a ++ (if c then "" else " - 1")) s ∧
    aluResult (.aluF1S7 path a b c) 15 ⟨.one ⟨.neg, .d⟩, .sfxMc⟩ path
      ⟨.one ⟨.neg, .d⟩, if c then .nothing else .minus1⟩ ("-d" ++ (if c then "" else " - 1")) s ∧
    aluResult (.aluF2S2 path a b c) 18 ⟨.one ⟨.neg, .q⟩, .sfxMc⟩ path
      ⟨.one ⟨.neg, .q⟩, if c then .nothing else .minus1⟩ ("-q" ++ (if c then "" else " - 1")) s ∧
    aluResult (.aluF2S3 path a b c) 19 ⟨.one ⟨.neg, .rb⟩, .sfxMc⟩ path
      ⟨.one ⟨.neg, .reg b⟩, if c then .nothing else .minus1⟩ ("-R" ++ dec b ++ (if c then "" else " - 1")) s ∧
    aluResult (.aluF2S4 path a b c) 20 ⟨.one ⟨.neg, .ra⟩, .sfxMc⟩ path
      ⟨.one ⟨.neg, .reg a⟩, if c then .nothing else .minus1⟩ ("-R" ++ dec a ++ (if c then "" else " - 1")) s ∧
    aluResult (.aluF2S7 path a b c) 23 ⟨.one ⟨.plain, .d⟩, .sfxMc⟩ path
      ⟨.one ⟨.plain, .d⟩, if c then .nothing else .minus1⟩ ("d" ++ (if c then "" else " - 1")) s

/-- R150 to R157: the logic OR rows. Index and text are the Encoding and Pseudocode lines of these rules themselves; the general rules R111 and R116 carry the decisions D3, D5 and D6 (log entries 15, 28). -/
def Obligations.AluOrRows : Prop :=
  ∀ (path : SelPath) (a b : BitVec 4) (c : Bool) (s : State),
    aluResult (.aluF3S0 path a b c) 24 ⟨.two ⟨.plain, .ra⟩ .or ⟨.plain, .q⟩, .sfxNone⟩ path
      ⟨.two ⟨.plain, .reg a⟩ .or ⟨.plain, .q⟩, .nothing⟩ ("R" ++ dec a ++ " | q") s ∧
    aluResult (.aluF3S1 path a b c) 25 ⟨.two ⟨.plain, .ra⟩ .or ⟨.plain, .rb⟩, .sfxNone⟩ path
      ⟨.two ⟨.plain, .reg a⟩ .or ⟨.plain, .reg b⟩, .nothing⟩ ("R" ++ dec a ++ " | R" ++ dec b) s ∧
    aluResult (.aluF3S2 path a b c) 26 ⟨.one ⟨.plain, .q⟩, .sfxNone⟩ path
      ⟨.one ⟨.plain, .q⟩, .nothing⟩ ("q") s ∧
    aluResult (.aluF3S3 path a b c) 27 ⟨.one ⟨.plain, .rb⟩, .sfxNone⟩ path
      ⟨.one ⟨.plain, .reg b⟩, .nothing⟩ ("R" ++ dec b) s ∧
    aluResult (.aluF3S4 path a b c) 28 ⟨.one ⟨.plain, .ra⟩, .sfxNone⟩ path
      ⟨.one ⟨.plain, .reg a⟩, .nothing⟩ ("R" ++ dec a) s ∧
    aluResult (.aluF3S5 path a b c) 29 ⟨.two ⟨.plain, .d⟩ .or ⟨.plain, .ra⟩, .sfxNone⟩ path
      ⟨.two ⟨.plain, .d⟩ .or ⟨.plain, .reg a⟩, .nothing⟩ ("d | R" ++ dec a) s ∧
    aluResult (.aluF3S6 path a b c) 30 ⟨.two ⟨.plain, .d⟩ .or ⟨.plain, .q⟩, .sfxNone⟩ path
      ⟨.two ⟨.plain, .d⟩ .or ⟨.plain, .q⟩, .nothing⟩ ("d | q") s ∧
    aluResult (.aluF3S7 path a b c) 31 ⟨.one ⟨.plain, .d⟩, .sfxNone⟩ path
      ⟨.one ⟨.plain, .d⟩, .nothing⟩ ("d") s

/-- R158 to R165: the logic AND rows. Index and text are the Encoding and Pseudocode lines of these rules themselves; the general rules R111 and R116 carry the decisions D3, D5 and D6 (log entries 15, 28). -/
def Obligations.AluAndRows : Prop :=
  ∀ (path : SelPath) (a b : BitVec 4) (c : Bool) (s : State),
    aluResult (.aluF4S0 path a b c) 32 ⟨.two ⟨.plain, .ra⟩ .and ⟨.plain, .q⟩, .sfxNone⟩ path
      ⟨.two ⟨.plain, .reg a⟩ .and ⟨.plain, .q⟩, .nothing⟩ ("R" ++ dec a ++ " & q") s ∧
    aluResult (.aluF4S1 path a b c) 33 ⟨.two ⟨.plain, .ra⟩ .and ⟨.plain, .rb⟩, .sfxNone⟩ path
      ⟨.two ⟨.plain, .reg a⟩ .and ⟨.plain, .reg b⟩, .nothing⟩ ("R" ++ dec a ++ " & R" ++ dec b) s ∧
    aluResult (.aluF4S2 path a b c) 34 ⟨.one ⟨.plain, .zero⟩, .sfxNone⟩ path
      ⟨.one ⟨.plain, .zero⟩, .nothing⟩ ("0") s ∧
    aluResult (.aluF4S3 path a b c) 35 ⟨.one ⟨.plain, .zero⟩, .sfxNone⟩ path
      ⟨.one ⟨.plain, .zero⟩, .nothing⟩ ("0") s ∧
    aluResult (.aluF4S4 path a b c) 36 ⟨.one ⟨.plain, .zero⟩, .sfxNone⟩ path
      ⟨.one ⟨.plain, .zero⟩, .nothing⟩ ("0") s ∧
    aluResult (.aluF4S5 path a b c) 37 ⟨.two ⟨.plain, .d⟩ .and ⟨.plain, .ra⟩, .sfxNone⟩ path
      ⟨.two ⟨.plain, .d⟩ .and ⟨.plain, .reg a⟩, .nothing⟩ ("d & R" ++ dec a) s ∧
    aluResult (.aluF4S6 path a b c) 38 ⟨.two ⟨.plain, .d⟩ .and ⟨.plain, .q⟩, .sfxNone⟩ path
      ⟨.two ⟨.plain, .d⟩ .and ⟨.plain, .q⟩, .nothing⟩ ("d & q") s ∧
    aluResult (.aluF4S7 path a b c) 39 ⟨.one ⟨.plain, .zero⟩, .sfxNone⟩ path
      ⟨.one ⟨.plain, .zero⟩, .nothing⟩ ("0") s

/-- R166 to R173: the AND-with-complement rows. Index and text are the Encoding and Pseudocode lines of these rules themselves; the general rules R111 and R116 carry the decisions D3, D5 and D6 (log entries 15, 28). -/
def Obligations.AluAndComplementRows : Prop :=
  ∀ (path : SelPath) (a b : BitVec 4) (c : Bool) (s : State),
    aluResult (.aluF5S0 path a b c) 40 ⟨.two ⟨.inv, .ra⟩ .and ⟨.plain, .q⟩, .sfxNone⟩ path
      ⟨.two ⟨.inv, .reg a⟩ .and ⟨.plain, .q⟩, .nothing⟩ ("!R" ++ dec a ++ " & q") s ∧
    aluResult (.aluF5S1 path a b c) 41 ⟨.two ⟨.inv, .ra⟩ .and ⟨.plain, .rb⟩, .sfxNone⟩ path
      ⟨.two ⟨.inv, .reg a⟩ .and ⟨.plain, .reg b⟩, .nothing⟩ ("!R" ++ dec a ++ " & R" ++ dec b) s ∧
    aluResult (.aluF5S2 path a b c) 42 ⟨.one ⟨.plain, .q⟩, .sfxNone⟩ path
      ⟨.one ⟨.plain, .q⟩, .nothing⟩ ("q") s ∧
    aluResult (.aluF5S3 path a b c) 43 ⟨.one ⟨.plain, .rb⟩, .sfxNone⟩ path
      ⟨.one ⟨.plain, .reg b⟩, .nothing⟩ ("R" ++ dec b) s ∧
    aluResult (.aluF5S4 path a b c) 44 ⟨.one ⟨.plain, .ra⟩, .sfxNone⟩ path
      ⟨.one ⟨.plain, .reg a⟩, .nothing⟩ ("R" ++ dec a) s ∧
    aluResult (.aluF5S5 path a b c) 45 ⟨.two ⟨.inv, .d⟩ .and ⟨.plain, .ra⟩, .sfxNone⟩ path
      ⟨.two ⟨.inv, .d⟩ .and ⟨.plain, .reg a⟩, .nothing⟩ ("!d & R" ++ dec a) s ∧
    aluResult (.aluF5S6 path a b c) 46 ⟨.two ⟨.inv, .d⟩ .and ⟨.plain, .q⟩, .sfxNone⟩ path
      ⟨.two ⟨.inv, .d⟩ .and ⟨.plain, .q⟩, .nothing⟩ ("!d & q") s ∧
    aluResult (.aluF5S7 path a b c) 47 ⟨.one ⟨.plain, .zero⟩, .sfxNone⟩ path
      ⟨.one ⟨.plain, .zero⟩, .nothing⟩ ("0") s

/-- R174 to R181: the logic XOR rows. Index and text are the Encoding and Pseudocode lines of these rules themselves; the general rules R111 and R116 carry the decisions D3, D5 and D6 (log entries 15, 28). -/
def Obligations.AluXorRows : Prop :=
  ∀ (path : SelPath) (a b : BitVec 4) (c : Bool) (s : State),
    aluResult (.aluF6S0 path a b c) 48 ⟨.two ⟨.plain, .ra⟩ .xor ⟨.plain, .q⟩, .sfxNone⟩ path
      ⟨.two ⟨.plain, .reg a⟩ .xor ⟨.plain, .q⟩, .nothing⟩ ("R" ++ dec a ++ " ^ q") s ∧
    aluResult (.aluF6S1 path a b c) 49 ⟨.two ⟨.plain, .ra⟩ .xor ⟨.plain, .rb⟩, .sfxNone⟩ path
      ⟨.two ⟨.plain, .reg a⟩ .xor ⟨.plain, .reg b⟩, .nothing⟩ ("R" ++ dec a ++ " ^ R" ++ dec b) s ∧
    aluResult (.aluF6S2 path a b c) 50 ⟨.one ⟨.plain, .q⟩, .sfxNone⟩ path
      ⟨.one ⟨.plain, .q⟩, .nothing⟩ ("q") s ∧
    aluResult (.aluF6S3 path a b c) 51 ⟨.one ⟨.plain, .rb⟩, .sfxNone⟩ path
      ⟨.one ⟨.plain, .reg b⟩, .nothing⟩ ("R" ++ dec b) s ∧
    aluResult (.aluF6S4 path a b c) 52 ⟨.one ⟨.plain, .ra⟩, .sfxNone⟩ path
      ⟨.one ⟨.plain, .reg a⟩, .nothing⟩ ("R" ++ dec a) s ∧
    aluResult (.aluF6S5 path a b c) 53 ⟨.two ⟨.plain, .d⟩ .xor ⟨.plain, .ra⟩, .sfxNone⟩ path
      ⟨.two ⟨.plain, .d⟩ .xor ⟨.plain, .reg a⟩, .nothing⟩ ("d ^ R" ++ dec a) s ∧
    aluResult (.aluF6S6 path a b c) 54 ⟨.two ⟨.plain, .d⟩ .xor ⟨.plain, .q⟩, .sfxNone⟩ path
      ⟨.two ⟨.plain, .d⟩ .xor ⟨.plain, .q⟩, .nothing⟩ ("d ^ q") s ∧
    aluResult (.aluF6S7 path a b c) 55 ⟨.one ⟨.plain, .d⟩, .sfxNone⟩ path
      ⟨.one ⟨.plain, .d⟩, .nothing⟩ ("d") s

/-- R182 to R189: the XOR-with-complement rows, with the kept `&` of columns 5 and 6. Index and text are the Encoding and Pseudocode lines of these rules themselves; the general rules R111 and R116 carry the decisions D3, D5 and D6 (log entries 15, 28). -/
def Obligations.AluXorComplementRows : Prop :=
  ∀ (path : SelPath) (a b : BitVec 4) (c : Bool) (s : State),
    aluResult (.aluF7S0 path a b c) 56 ⟨.two ⟨.inv, .ra⟩ .xor ⟨.plain, .q⟩, .sfxNone⟩ path
      ⟨.two ⟨.inv, .reg a⟩ .xor ⟨.plain, .q⟩, .nothing⟩ ("!R" ++ dec a ++ " ^ q") s ∧
    aluResult (.aluF7S1 path a b c) 57 ⟨.two ⟨.inv, .ra⟩ .xor ⟨.plain, .rb⟩, .sfxNone⟩ path
      ⟨.two ⟨.inv, .reg a⟩ .xor ⟨.plain, .reg b⟩, .nothing⟩ ("!R" ++ dec a ++ " ^ R" ++ dec b) s ∧
    aluResult (.aluF7S2 path a b c) 58 ⟨.one ⟨.inv, .q⟩, .sfxNone⟩ path
      ⟨.one ⟨.inv, .q⟩, .nothing⟩ ("!q") s ∧
    aluResult (.aluF7S3 path a b c) 59 ⟨.one ⟨.inv, .rb⟩, .sfxNone⟩ path
      ⟨.one ⟨.inv, .reg b⟩, .nothing⟩ ("!R" ++ dec b) s ∧
    aluResult (.aluF7S4 path a b c) 60 ⟨.one ⟨.inv, .ra⟩, .sfxNone⟩ path
      ⟨.one ⟨.inv, .reg a⟩, .nothing⟩ ("!R" ++ dec a) s ∧
    aluResult (.aluF7S5 path a b c) 61 ⟨.two ⟨.inv, .d⟩ .and ⟨.plain, .ra⟩, .sfxNone⟩ path
      ⟨.two ⟨.inv, .d⟩ .and ⟨.plain, .reg a⟩, .nothing⟩ ("!d & R" ++ dec a) s ∧
    aluResult (.aluF7S6 path a b c) 62 ⟨.two ⟨.inv, .d⟩ .and ⟨.plain, .q⟩, .sfxNone⟩ path
      ⟨.two ⟨.inv, .d⟩ .and ⟨.plain, .q⟩, .nothing⟩ ("!d & q") s ∧
    aluResult (.aluF7S7 path a b c) 63 ⟨.one ⟨.inv, .d⟩, .sfxNone⟩ path
      ⟨.one ⟨.inv, .d⟩, .nothing⟩ ("!d") s

/-- 43_assembler.md section 3: the default table. Its contents are the spec's decision D12, in part from general knowledge (log entries 10, 25). -/
def Obligations.DestinationRowsSelectTheDefaultTemplates : Prop :=
  ∀ (b : BitVec 4) (s : State),
    dstResult (.dst0 false b) 0 false b ⟨[.q], .none⟩ ("q" ++ " = (") s ∧
    dstResult (.dst0 true b) 0 true b ⟨[.y, .q], .none⟩ ("y" ++ ", " ++ "q" ++ " = (") s ∧
    dstResult (.dst1 false b) 1 false b ⟨[], .none⟩ ("(") s ∧
    dstResult (.dst1 true b) 1 true b ⟨[.y], .none⟩ ("y" ++ " = (") s ∧
    dstResult (.dst2 false b) 2 false b ⟨[.rb], .none⟩ (("R" ++ dec b) ++ " = (") s ∧
    dstResult (.dst2 true b) 2 true b ⟨[.y, .rb], .none⟩ ("y" ++ ", " ++ ("R" ++ dec b) ++ " = (") s ∧
    dstResult (.dst3 false b) 3 false b ⟨[.rb], .none⟩ (("R" ++ dec b) ++ " = (") s ∧
    dstResult (.dst3 true b) 3 true b ⟨[.y, .rb], .none⟩ ("y" ++ ", " ++ ("R" ++ dec b) ++ " = (") s ∧
    dstResult (.dst4 false b) 4 false b ⟨[.q, .rb], .half⟩ ("q" ++ ", " ++ ("R" ++ dec b) ++ " = 1/2*(") s ∧
    dstResult (.dst4 true b) 4 true b ⟨[.y, .q, .rb], .half⟩ ("y" ++ ", " ++ "q" ++ ", " ++ ("R" ++ dec b) ++ " = 1/2*(") s ∧
    dstResult (.dst5 false b) 5 false b ⟨[.rb], .half⟩ (("R" ++ dec b) ++ " = 1/2*(") s ∧
    dstResult (.dst5 true b) 5 true b ⟨[.y, .rb], .half⟩ ("y" ++ ", " ++ ("R" ++ dec b) ++ " = 1/2*(") s ∧
    dstResult (.dst6 false b) 6 false b ⟨[.q, .rb], .double⟩ ("q" ++ ", " ++ ("R" ++ dec b) ++ " = 2*(") s ∧
    dstResult (.dst6 true b) 6 true b ⟨[.y, .q, .rb], .double⟩ ("y" ++ ", " ++ "q" ++ ", " ++ ("R" ++ dec b) ++ " = 2*(") s ∧
    dstResult (.dst7 false b) 7 false b ⟨[.rb], .double⟩ (("R" ++ dec b) ++ " = 2*(") s ∧
    dstResult (.dst7 true b) 7 true b ⟨[.y, .rb], .double⟩ ("y" ++ ", " ++ ("R" ++ dec b) ++ " = 2*(") s

/-- 43_assembler.md section 5: the three jump forms, with their derived effect on `eos` and `showY`. Texts by D15, D16 (log entries 15, 16); that the row drives `J` and `S` is the model's reading (log entry 22). -/
def Obligations.JumpRowsDriveTheirForms : Prop :=
  (∀ s : State, ∃ t, exec .jmpNone s = .next t ∧ t = driveJump .noJump (driveJ false s) ∧
    jumpCol t.block = "" ∧ eos t.block = s.block.fields.H ∧ t.block.fields.showY = s.block.fields.H) ∧
  (∀ (target : Option Address) (s : State), ∃ t,
    exec (.jmpUncond target) s = .next t ∧ t = driveJump (.uncond target) (driveS false (driveJ true s)) ∧
    jumpCol t.block = "->" ++ targetText target ∧ eos t.block = true ∧
    t.block.fields.showY = s.block.fields.H) ∧
  (∀ (target : Option Address) (s : State), ∃ t,
    exec (.jmpCond target) s = .next t ∧ t = driveJump (.cond target) (driveS true (driveJ true s)) ∧
    jumpCol t.block = "(->" ++ targetText target ++ ")" ∧ eos t.block = s.block.fields.H ∧
    t.block.fields.showY = true)

/-- 40_field_decoder.md section 3 (R87, R88, R89): the three flags that have a letter; `J`, not `L`, gates the jump column of a word. That a row run alone drives its one output and no other, so that FLAG_L alone leaves the jump column as it was, is the model's reading (log entry 22). The mark of a clear flag is the spec's decision D14 (log entry 15). That the clauses over every word hold of address-load words too, FLAG_L acting in them and their jump column being filled when `J` is set, is its decision D10 (log entry 12). -/
def Obligations.FlagRowsActOnTheirBits : Prop :=
  (∀ w : Word,
    (decodeFields w).H = w.getLsbD 11 ∧ (decodeFields w).L = w.getLsbD 7 ∧ (decodeFields w).S = w.getLsbD 3 ∧
    (.flagH ∈ decodeRows w ↔ w.getLsbD 11 = true) ∧ (.flagL ∈ decodeRows w ↔ w.getLsbD 7 = true) ∧
    (.flagS ∈ decodeRows w ↔ w.getLsbD 3 = true)) ∧
  (∀ (w : Word) (s : State), ∃ t, decodeWord w s = .next t ∧ (jumpCol t.block = "" ↔ w.getLsbD 2 = false)) ∧
  (∀ s : State, ∃ t, exec .flagH s = .next t ∧ t = driveFields { s.block.fields with H := true } s ∧
    eos t.block = true ∧ t.block.fields.showY = true ∧
    flagsCol t.block = "H" ++ flagMark "S" s.block.fields.S ++ flagMark "L" s.block.fields.L) ∧
  (∀ s : State, ∃ t, exec .flagL s = .next t ∧ t = driveFields { s.block.fields with L := true } s ∧
    t.block.fields.jumpAddress = some s.block.fields.jaddr ∧ jumpCol t.block = jumpCol s.block ∧
    flagsCol t.block = flagMark "H" s.block.fields.H ++ flagMark "S" s.block.fields.S ++ "L") ∧
  (∀ s : State, ∃ t, exec .flagS s = .next t ∧ t = driveFields { s.block.fields with S := true } s ∧
    flagsCol t.block = flagMark "H" s.block.fields.H ++ "S" ++ flagMark "L" s.block.fields.L ∧
    (s.block.fields.J = false → s.block.fields.H = false →
      eos t.block = eos s.block ∧ t.block.fields.showY = s.block.fields.showY))

/-- 40_field_decoder.md section 3; that the carry of a lookup is `C` is the spec's decision D8 (log entry 14). That the row run alone drives `C` and nothing else is the model's reading (log entry 22). -/
def Obligations.CarryRowDrivesC : Prop :=
  (∀ w : Word, (decodeFields w).C = w.getLsbD 0 ∧ (.carry ∈ decodeRows w ↔ w.getLsbD 0 = true) ∧
    (isAddrLoad w = false →
      aluRow (decodeFields w).f (decodeFields w).sh .high (decodeFields w).a (decodeFields w).b (w.getLsbD 0)
        ∈ decodeRows w)) ∧
  (∀ s : State, exec .carry s = .next (driveFields { s.block.fields with C := true } s))

/-- 43_assembler.md section 4: the multiplexer branch. Its separators are the spec's decision D13 (log entry 15); that the row drives `M`, which is another rule's (40_field_decoder.md section 3), is the model's reading (log entry 22). -/
def Obligations.MuxRowAddsTheBranch : Prop :=
  (∀ (f sh sl : BitVec 3) (a b : BitVec 4) (c : Bool) (s : State),
    exec (.mux f sh sl a b c) s = .next (driveMux
      { first := render f (sh ^^^ 2#3) a b c
        second := if sh = sl then none else some (render f (sl ^^^ 2#3) a b c) }
      (driveFields { s.block.fields with M := true } s))) ∧
  (∀ x : Expr, muxText (some ⟨x, none⟩) = " : " ++ exprText x) ∧
  (∀ x y : Expr, muxText (some ⟨x, some y⟩) = " : " ++ (exprText x ++ ", " ++ exprText y))

/-- 43_assembler.md section 4: the low-select alternate. Its separator is the spec's decision D13 (log entry 15); that the row run alone drives the alternate and nothing else is the model's reading (log entries 22, 23). -/
def Obligations.AltSelectRowsAddTheLowSelectLookup : Prop :=
  (∀ (f : BitVec 3) (ss : BitVec 2) (a b : BitVec 4) (c : Bool) (s : State),
    exec (.altSelectHigh f ss a b c) s = .next (driveAlt (render f (ss.setWidth 3) a b c) s) ∧
    exec (.altSelectLow f ss a b c) s = .next (driveAlt (render f (ss.setWidth 3 + 4#3) a b c) s)) ∧
  (∀ x y : Expr, exprsText x (some y) = exprText x ++ ", " ++ exprText y ∧ exprsText x none = exprText x)

/-- 43_assembler.md section 2. That flags and jump stay is the spec's decision D10, the marker's text D11 (log entries 12, 15); that the row run alone drives the match and nothing else is the model's reading (log entry 22). -/
def Obligations.AddressLoadRowReplacesTheBody : Prop :=
  ∀ (jaddr : Address) (bit6 jBit : Bool) (s : State), ∃ t,
    exec (.addrload jaddr bit6 jBit) s = .next t ∧ t = driveAddrLoad s ∧
    bodyForm? t.block = some .addressLoad ∧ bodyCol t.block = "address-load, no ALU operation" ∧
    flagsCol t.block = flagsCol s.block ∧ jumpCol t.block = jumpCol s.block ∧ eos t.block = eos s.block

/-- 20_memory.md section 1 (the block performs no memory access): the frame of all 84 rows. The list of wires is `drives` in Safety.lean (log entry 22). -/
def Obligations.RowsDriveOnlyTheirOwnWires : Prop :=
  ∀ (i : Instr) (s t : State), exec i s = .next t →
    sameEdge s t ∧ (∀ a : Address, t.store.read a = s.store.read a) ∧ t.block.word = s.block.word ∧
    ∀ wire : Wire, wire ∉ drives i → sameWire s t wire

/-- 30_encoding.md section 3 and 20_memory.md section 6: the step runs the decoded rows. One step is one word (log entry 3). -/
def Obligations.StepRunsTheDecodedRows : Prop :=
  (∀ s : State, s.phase = .listing → ∃ t,
    runRows (decodeRows (s.store.read s.addr)) (presentWord (s.store.read s.addr) s) = .next t ∧
    step s = .next (listWord (s.store.read s.addr) t)) ∧
  (∀ (i : Instr) (rest : List Instr) (s t : State), exec i s = .next t → runRows (i :: rest) s = runRows rest t) ∧
  (∀ s : State, runRows [] s = .next s)

/-- 43_assembler.md section 7: the rows, run one by one, refine to the whole-block algorithms. The texts rest on the spec's decisions (log entries 10 to 17). -/
def Obligations.StepComputesTheWholeBlockFunction : Prop :=
  ∀ s : State, s.phase = .listing → ∃ t,
    step s = .next t ∧ t.block.word = some (s.store.read s.addr) ∧
    decodedOf t.block.fields = decodeByShifts (s.store.read s.addr).toNat ∧
    assembledOf t.block = assemble (s.store.read s.addr) ∧
    output? t.block = some (outputOf (s.store.read s.addr))

/-- R3: everything the block computes is a function of the word alone; the address is no input. -/
def Obligations.OutputsDependOnTheWordAlone : Prop :=
  ∀ s s' : State, s.phase = .listing → s'.phase = .listing → s.store.read s.addr = s'.store.read s'.addr →
    ∃ t t', step s = .next t ∧ step s' = .next t' ∧ t.block = t'.block

/-- R4: everything the block computes is total. -/
def Obligations.EveryWordHasAnOutput : Prop :=
  (∀ (w : Word) (s : State), ∃ t o, decodeWord w s = .next t ∧ output? t.block = some o) ∧
  (∀ (i : Instr) (s : State), ∃ t, exec i s = .next t)

/-- 70_reset_and_hazards.md section 3, 20_memory.md section 5: the parts of a word are unordered, so the model's order (log entry 3) does not matter. -/
def Obligations.RowOrderIsImmaterial : Prop :=
  ∀ (w : Word) (s : State) (rows : List Instr), rows.Perm (decodeRows w) →
    runRows rows (presentWord w s) = decodeWord w s

/-- 20_memory.md sections 2 and 6, 43_assembler.md section 7, 60_exceptions.md section 2 (no partial listing): the invariant of a run. The canonical form, the phases and the structured row are the model's (log entries 1, 7, 9, 19); the texts rest on the spec's decisions (log entries 10 to 17). -/
def Obligations.EveryStepKeepsTheInvariant : Prop :=
  ∀ s t : State, Inv s → step s = .next t → Inv t

/-- 10_state.md section 10: the block has nothing to reset. The values are the model's (log entries 5, 6). -/
def Obligations.ResetMeetsTheInvariant : Prop :=
  Inv State.reset ∧ State.reset.block.word = none ∧ State.reset.phase = .loading ∧
  State.reset.sources = Sources.absent ∧
  (∀ a : Address, State.reset.store.read a = 0 ∧ State.reset.dispatch.label a = none) ∧
  State.reset.addr = 0 ∧ State.reset.listing = [] ∧ bodyForm? State.reset.block = none

/-- 20_memory.md section 6: the Formatter's walk. The structured row stands for the open row format (log entry 19), the phase `done` is the model's (log entry 9), and the texts of the columns rest on the spec's decisions (log entries 10 to 17). -/
def Obligations.WholeRunListsTheWholeStore : Prop :=
  ∀ s : State, s.phase = .listing → s.addr = 0 → s.listing = [] → ∃ t,
    Host.Core.run Sys2Proof.core 256 s = .next t ∧ t.phase = .done ∧ t.store = s.store ∧ t.dispatch = s.dispatch ∧
    t.listing = rowsUpTo s.store s.dispatch 256 ∧ finishedExitCode t = some 0

/-- 60_exceptions.md sections 1 and 2: the block raises nothing; a boundary error comes before any word. That step goes on answering in the done phase is the model's choice (log entry 9). -/
def Obligations.OnlyTheLoadCanStop : Prop :=
  (∀ (s : State) (r : Refusal), step s ≠ .refused r) ∧
  (∀ (s : State) (f : Fault), step s = .fault f → s.phase = .loading) ∧
  (∀ s : State, s.phase ≠ .loading → ∃ t, step s = .next t)

/-- R219: the end-of-sequence output. -/
def Obligations.EosIsPassedOnForEveryWord : Prop :=
  ∀ s : State, s.phase = .listing → ∃ t row,
    step s = .next t ∧ eos t.block = (decodeFields (s.store.read s.addr)).eos ∧
    eos t.block = ((s.store.read s.addr).getLsbD 11 ||
      ((s.store.read s.addr).getLsbD 2 && !(s.store.read s.addr).getLsbD 3)) ∧
    t.listing = s.listing ++ [row] ∧ row.blankAfter = eos t.block

/-- 43_assembler.md section 2: the address-load line. That flags and jump are shown is the spec's decision D10 (log entry 12). That its flags are `L` alone, `eos = J` and `showY` false follows from the sentinel 0x0090, the decision D9 (log entry 11). The texts are by D11 and D14 (log entry 15). -/
def Obligations.AddressLoadLine : Prop :=
  ∀ s : State, s.phase = .listing → isAddrLoad (s.store.read s.addr) = true → ∃ t,
    step s = .next t ∧ flagsCol t.block = "  L" ∧
    t.block.jump = (if (s.store.read s.addr).getLsbD 2 then .uncond (some ((s.store.read s.addr).extractLsb' 16 8))
                    else .noJump) ∧
    bodyForm? t.block = some .addressLoad ∧ bodyCol t.block = "address-load, no ALU operation" ∧
    eos t.block = (s.store.read s.addr).getLsbD 2 ∧ t.block.fields.showY = false ∧
    t.block.main = none ∧ t.block.alt = none ∧ t.block.mux = none ∧ t.block.dest = none

/-- 43_assembler.md section 4: the lookups of a word, their number and the order of their texts. That every lookup takes `C` as its carry is the spec's decision D8 (log entry 14), that `a` and `b` are used whatever `L` is its D22 (log entry 17), that the lookups themselves are unordered its D19 (log entry 30). -/
def Obligations.LookupsMadeForAWord : Prop :=
  ∀ s : State, s.phase = .listing → ∃ t body,
    step s = .next t ∧ bodyForm? t.block = some body ∧
    shownExprs body = (lookupCodes (s.store.read s.addr)).map (fun code =>
      render (decodeFields (s.store.read s.addr)).f code (decodeFields (s.store.read s.addr)).a
        (decodeFields (s.store.read s.addr)).b (decodeFields (s.store.read s.addr)).C) ∧
    (shownExprs body).length =
      (if isAddrLoad (s.store.read s.addr) then 0
       else (if (s.store.read s.addr).getLsbD 15 ≠ (s.store.read s.addr).getLsbD 14 then 2 else 1)
         * (if (s.store.read s.addr).getLsbD 1 then 2 else 1))

/-- 43_assembler.md section 4, an inference the spec marks as derived: `s` and `s ^ 2` never print the same text, and so never give the same expression. Codes that are not paired can. The spelling is by D5 and D6 (log entry 15). -/
def Obligations.MuxSidesAreNeverTheSame : Prop :=
  ∀ (f s : BitVec 3) (a b : BitVec 4) (c : Bool),
    exprText (render f s a b c) ≠ exprText (render f (s ^^^ 2#3) a b c) ∧ render f s a b c ≠ render f (s ^^^ 2#3) a b c

/-- 41_alu_rom_arith.md section 1; index order and spelling by D3, D5, D6 (log entries 15, 28). -/
def Obligations.RomHolds64NonEmptyEntries : Prop :=
  romTable.length = 64 ∧
  (∀ f s : BitVec 3, romTable[8 * f.toNat + s.toNat]? = some (rom f s)) ∧
  (∀ (f s : BitVec 3) (a b : BitVec 4) (c : Bool),
    exprText (render f s a b c) ≠ "" ∧ (exprText (render f s a b c)).length ≤ 13)

/-- R115: instantiation. -/
def Obligations.LookupsUseOnlyTheOperandsTheyName : Prop :=
  (∀ (f s : BitVec 3) (a b : BitVec 4) (c : Bool),
    (render f s a b c).adjust =
      (match (rom f s).suffix with
        | .sfxPc => if c = true then .plus1 else .nothing
        | .sfxMc => if c = false then .minus1 else .nothing
        | .sfxNone => .nothing) ∧
    (render f s a b c).body =
      (match (rom f s).body with
        | .one t => .one ⟨t.mark, operandSymbol a b t.operand⟩
        | .two l op r => .two ⟨l.mark, operandSymbol a b l.operand⟩ op ⟨r.mark, operandSymbol a b r.operand⟩)) ∧
  (∀ a b : BitVec 4, operandSymbol a b .ra = .reg a ∧ operandSymbol a b .rb = .reg b ∧ operandSymbol a b .q = .q ∧
    operandSymbol a b .d = .d ∧ operandSymbol a b .zero = .zero) ∧
  (∀ (f s : BitVec 3) (a a' b : BitVec 4) (c : Bool),
    mentions .ra (rom f s).body = false → render f s a b c = render f s a' b c) ∧
  (∀ (f s : BitVec 3) (a b b' : BitVec 4) (c : Bool),
    mentions .rb (rom f s).body = false → render f s a b c = render f s a b' c)

/-- 41_alu_rom_arith.md section 1; D7 (log entry 13). -/
def Obligations.SuffixFamilyIsFixedByTheFunctionCode : Prop :=
  (∀ f s : BitVec 3, (rom f s).suffix =
    (if f = 0 then .sfxPc else if f = 1 ∨ f = 2 then .sfxMc else .sfxNone)) ∧
  (∀ (f s : BitVec 3) (a b : BitVec 4), 3 ≤ f.toNat → render f s a b false = render f s a b true) ∧
  (∀ (f s : BitVec 3) (a b : BitVec 4), f.toNat < 3 → render f s a b false ≠ render f s a b true)

/-- 60_exceptions.md sections 2 and 4: the boundary errors; their order by D24, surplus bytes by D27 (log entry 20). -/
def Obligations.SourceErrorsInTheOrderTaken : Prop :=
  (∀ s : State, s.phase = .loading →
    (∀ f, firstFailure (sourceOrder s.sources) = some f → step s = .fault f) ∧
    (firstFailure (sourceOrder s.sources) = none → ∃ t,
      step s = .next t ∧ t.phase = .listing ∧ t.addr = 0 ∧ t.listing = [] ∧ t.sources = s.sources ∧
      t.block = s.block)) ∧
  (∀ id : SourceId, exitCode (.sourceOpenFailure id) = 2 ∧ exitCode (.sourceReadFailure id) = 3)

/-- 20_memory.md section 2: word assembly, under the precondition of D20 (log entry 8). That surplus bytes, of any value, are ignored is the spec's decision D27 (log entry 20). -/
def Obligations.LoadAssemblesWordsFromNibbles : Prop :=
  ∀ (s : State) (b0 b1 b2 b3 b4 b5 d : List Byte), s.phase = .loading →
    s.sources = { n0 := some b0, n1 := some b1, n2 := some b2, n3 := some b3, n4 := some b4, n5 := some b5,
                  dispatch := some d } →
    (∀ b ∈ [b0, b1, b2, b3, b4, b5], 256 ≤ b.length ∧ ∀ x ∈ b.take 256, x.toNat < 16) → 32 ≤ d.length → ∃ t,
    step s = .next t ∧ ∀ a : Address,
      t.store.read a =
        (b0.getD a.toNat 0).setWidth 24 ||| (b1.getD a.toNat 0).setWidth 24 <<< 4
          ||| (b2.getD a.toNat 0).setWidth 24 <<< 8 ||| (b3.getD a.toNat 0).setWidth 24 <<< 12
          ||| (b4.getD a.toNat 0).setWidth 24 <<< 16 ||| (b5.getD a.toNat 0).setWidth 24 <<< 20 ∧
      (t.store.read a).extractLsb' 0 4 = (b0.getD a.toNat 0).setWidth 4 ∧
      (t.store.read a).extractLsb' 4 4 = (b1.getD a.toNat 0).setWidth 4 ∧
      (t.store.read a).extractLsb' 8 4 = (b2.getD a.toNat 0).setWidth 4 ∧
      (t.store.read a).extractLsb' 12 4 = (b3.getD a.toNat 0).setWidth 4 ∧
      (t.store.read a).extractLsb' 16 4 = (b4.getD a.toNat 0).setWidth 4 ∧
      (t.store.read a).extractLsb' 20 4 = (b5.getD a.toNat 0).setWidth 4

/-- 20_memory.md section 2: the dispatch table. That the last assignment is the highest code is the spec's inference (log entry 26), that the surplus bytes of a long source are ignored its decision D27 (log entry 20). -/
def Obligations.LastDispatchCodeOfAnAddressWins : Prop :=
  (∀ (bytes : List Byte) (a : Address), bytes.length = 32 →
    (∀ c : BitVec 5, (buildDispatch bytes).label a = some c ↔
      bytes[c.toNat]? = some a ∧ ∀ k : Nat, c.toNat < k → bytes[k]? ≠ some a) ∧
    ((buildDispatch bytes).label a = none ↔ a ∉ bytes)) ∧
  (∀ (s : State) (bytes : List Byte), s.phase = .loading → firstFailure (sourceOrder s.sources) = none →
    s.sources.dispatch = some bytes → ∃ t, step s = .next t ∧ ∀ a : Address,
      (∀ c : BitVec 5, t.dispatch.label a = some c ↔
        bytes[c.toNat]? = some a ∧ ∀ k : Nat, c.toNat < k → k < 32 → bytes[k]? ≠ some a) ∧
      (t.dispatch.label a = none ↔ a ∉ bytes.take 32))

/-- 20_memory.md sections 2 and 3; the canonical form is the model's (log entry 7). -/
def Obligations.EqualWordsMeanEqualStores : Prop :=
  ∀ m m' : Memory, m.wf → m'.wf → (∀ a : Address, m.read a = m'.read a) → m = m'

/-- 60_exceptions.md section 2 (exit code 0: all 256 rows listed); that the machine then stays is the model's choice (log entry 9). -/
def Obligations.FinishedRunStays : Prop :=
  ∀ s : State, s.phase = .done → step s = .next s ∧ finishedExitCode s = some 0

/-- 20_memory.md section 6; placing a word stands for a load from outside (log entry 5). -/
def Obligations.PresentedWordIsFetchedAndRun : Prop :=
  ∀ (s : State) (n : Nat), n < 2 ^ 24 →
    (∃ t, step (s.withFetchWord 24 n) = .next t ∧ t.block.word = some (BitVec.ofNat 24 n)) ∧
    (∀ a : Address, a ≠ s.addr → (s.withFetchWord 24 n).store.read a = s.store.read a) ∧
    (s.withFetchWord 24 n).dispatch = s.dispatch ∧ (s.withFetchWord 24 n).sources = s.sources ∧
    (s.withFetchWord 24 n).addr = s.addr ∧ (s.withFetchWord 24 n).listing = s.listing
end

