-- ==== Sys2Proof/Laws/Encoding.lean ====
section
/-! SUPPORT. The encoder bit by bit, and what each mask of the opcode table leaves of an encoded word. -/

namespace Sys2Proof.Laws

open Sys2Proof Sys2Proof.Machine

/-- The 24 bits of an encoded word, bit 0 first (R51). -/
def fieldBits (x : Fields) : List Bool :=
  [x.C, x.M, x.J, x.S, x.dst.getLsbD 0, x.dst.getLsbD 1, x.dst.getLsbD 2, x.L,
   x.f.getLsbD 0, x.f.getLsbD 1, x.f.getLsbD 2, x.H,
   x.sl.getLsbD 0, x.sl.getLsbD 1, x.sl.getLsbD 2, x.sh.getLsbD 2,
   x.b.getLsbD 0, x.b.getLsbD 1, x.b.getLsbD 2, x.b.getLsbD 3,
   x.a.getLsbD 0, x.a.getLsbD 1, x.a.getLsbD 2, x.a.getLsbD 3]

/-- Bit `k` of an encoded word. -/
theorem encodeFields_bit (x : Fields) (k : Nat) : (encodeFields x).getLsbD k = (fieldBits x).getD k false := by
  by_cases h : k < 24
  · interval_cases k <;> simp [encodeFields, placeBit, placeAt, fieldBits]
  · rw [BitVec.getLsbD_of_ge _ _ (by omega), List.getD_eq_default _ _ (by simp [fieldBits]; omega)]

/-- Two field records whose bits under a mask agree encode to words that agree under it. -/
theorem encodeFields_mask (x y : Fields) (m : Word)
    (h : ∀ k < 24, ((fieldBits x).getD k false && m.getLsbD k) = (fieldBits y).getD k false) :
    encodeFields x &&& m = encodeFields y := by
  apply BitVec.eq_of_getLsbD_eq
  intro k hk
  rw [BitVec.getLsbD_and, encodeFields_bit, encodeFields_bit]
  exact h k hk

/-- The high-select pattern of an ALU row: `f`, and bits 15, 13 and 12. -/
theorem mask_high (x : Fields) :
    encodeFields x &&& 0x00B700#24 = encodeFields { Fields.zero with f := x.f, sh := x.sh, sl := x.sl &&& 3#3 } :=
  encodeFields_mask _ _ _ fun k hk => by interval_cases k <;> simp [fieldBits, Fields.zero]

/-- The low-select pattern of an ALU row: `f`, and bits 14 to 12. -/
theorem mask_low (x : Fields) :
    encodeFields x &&& 0x007700#24 = encodeFields { Fields.zero with f := x.f, sl := x.sl } :=
  encodeFields_mask _ _ _ fun k hk => by interval_cases k <;> simp [fieldBits, Fields.zero]

theorem mask_dst (x : Fields) : encodeFields x &&& 0x000070#24 = encodeFields { Fields.zero with dst := x.dst } :=
  encodeFields_mask _ _ _ fun k hk => by interval_cases k <;> simp [fieldBits, Fields.zero]

theorem mask_jump (x : Fields) : encodeFields x &&& 0x00000C#24 = encodeFields { Fields.zero with S := x.S, J := x.J } :=
  encodeFields_mask _ _ _ fun k hk => by interval_cases k <;> simp [fieldBits, Fields.zero]

theorem mask_mux (x : Fields) : encodeFields x &&& 0x000002#24 = encodeFields { Fields.zero with M := x.M } :=
  encodeFields_mask _ _ _ fun k hk => by interval_cases k <;> simp [fieldBits, Fields.zero]

theorem mask_alt (x : Fields) :
    encodeFields x &&& 0x00C000#24 = encodeFields { Fields.zero with sh := x.sh, sl := x.sl &&& 4#3 } :=
  encodeFields_mask _ _ _ fun k hk => by interval_cases k <;> simp [fieldBits, Fields.zero]

theorem mask_addrload (x : Fields) :
    encodeFields x &&& 0x00FFBB#24 = encodeFields { x with a := 0, b := 0, J := false, dst := x.dst &&& 3#3 } :=
  encodeFields_mask _ _ _ fun k hk => by interval_cases k <;> simp [fieldBits]

/-- An ALU row's word under its path's mask is its pair `(f, s)` alone, whatever its operands are. -/
theorem alu_pattern (f s : BitVec 3) (path : SelPath) (a b : BitVec 4) (c : Bool) :
    encodeFields (aluFields f s path a b c) &&& (match path with | .high => 0x00B700#24 | .low => 0x007700#24)
      = (match path with
          | .high => encodeFields { Fields.zero with f := f, sh := s, sl := s &&& 3#3 &&& 3#3 }
          | .low => encodeFields { Fields.zero with f := f, sl := s }) := by
  cases path
  · exact mask_high _
  · exact mask_low _

/-- A destination row's word under its mask is its code alone. -/
theorem dst_pattern (dst : BitVec 3) (showY : Bool) (b : BitVec 4) :
    encodeFields (dstFields dst showY b) &&& 0x000070#24 = encodeFields { Fields.zero with dst := dst } :=
  mask_dst _

/-- A jump row's word under the two-bit mask is `J` and its `S`. -/
theorem jump_pattern (sBit : Bool) (target : Option Address) :
    encodeFields (jumpFields sBit target) &&& 0x00000C#24 = encodeFields { Fields.zero with S := sBit, J := true } := by
  cases target <;> exact mask_jump _

/-- A MUX row's word under its mask is `M` alone. -/
theorem mux_pattern (f sh sl : BitVec 3) (a b : BitVec 4) (c : Bool) :
    encode (.mux f sh sl a b c) &&& 0x000002#24 = encodeFields { Fields.zero with M := true } :=
  mask_mux _

/-- An ALT_SELECT row's word under its mask is bits 15 and 14 alone. -/
theorem alt_high_pattern (f : BitVec 3) (ss : BitVec 2) (a b : BitVec 4) (c : Bool) :
    encode (.altSelectHigh f ss a b c) &&& 0x00C000#24 = encodeFields { Fields.zero with sh := 1#1 ++ ss, sl := (0#1 ++ ss) &&& 4#3 } :=
  mask_alt _

theorem alt_low_pattern (f : BitVec 3) (ss : BitVec 2) (a b : BitVec 4) (c : Bool) :
    encode (.altSelectLow f ss a b c) &&& 0x00C000#24 = encodeFields { Fields.zero with sh := 0#1 ++ ss, sl := (1#1 ++ ss) &&& 4#3 } :=
  mask_alt _

/-- An address-load row's word under its mask is the sentinel: the address, bit 6 and `J` are free (R59). -/
theorem addrload_pattern (jaddr : Address) (bit6 jBit : Bool) :
    encode (.addrload jaddr bit6 jBit) &&& 0x00FFBB#24 = encodeFields { Fields.zero with L := true, dst := 1#3 } := by
  have h : (BitVec.ofBool bit6 ++ 1#2) &&& 3#3 = 1#3 := by cases bit6 <;> decide
  refine (mask_addrload (instrFields (.addrload jaddr bit6 jBit))).trans ?_
  simp only [instrFields, h, Fields.zero]

end Sys2Proof.Laws
end

