-- ==== Sys2Proof/Laws/Memory.lean ====
section
/-! SUPPORT. The laws of tables in canonical form and of the word store: what a read sees after a write, and that
every operation keeps the canonical form. -/

namespace Sys2Proof.Laws

open Sys2Proof Sys2Proof.Machine

variable {α : Type}

theorem tableGet_tableSet_same (a : Nat) (v : α) (t : List (Nat × α)) : tableGet? (tableSet a v t) a = some v := by
  induction t with
  | nil => simp [tableSet, tableGet?]
  | cons e rest ih =>
    obtain ⟨b, u⟩ := e
    simp only [tableSet]
    split_ifs with h1 h2
    · simp [tableGet?]
    · simp [tableGet?]
    · simp [tableGet?, h2, ih]

theorem tableGet_tableSet_other (a c : Nat) (v : α) (t : List (Nat × α)) (h : c ≠ a) :
    tableGet? (tableSet a v t) c = tableGet? t c := by
  induction t with
  | nil => simp [tableSet, tableGet?, h]
  | cons e rest ih =>
    obtain ⟨b, u⟩ := e
    simp only [tableSet]
    split_ifs with h1 h2
    · simp [tableGet?, h]
    · subst h2; simp [tableGet?, h]
    · simp [tableGet?, ih]

theorem tableGet_tableErase_same (a : Nat) (t : List (Nat × α)) : tableGet? (tableErase a t) a = none := by
  induction t with
  | nil => simp [tableErase, tableGet?]
  | cons e rest ih =>
    obtain ⟨b, u⟩ := e
    simp only [tableErase]
    split_ifs with h1
    · exact ih
    · simp [tableGet?, h1, ih]

theorem tableGet_tableErase_other (a c : Nat) (t : List (Nat × α)) (h : c ≠ a) :
    tableGet? (tableErase a t) c = tableGet? t c := by
  induction t with
  | nil => simp [tableErase, tableGet?]
  | cons e rest ih =>
    obtain ⟨b, u⟩ := e
    simp only [tableErase]
    split_ifs with h1
    · subst h1; simp [tableGet?, h, ih]
    · simp [tableGet?, ih]

theorem mem_tableSet {a : Nat} {v : α} {t : List (Nat × α)} {e : Nat × α} (h : e ∈ tableSet a v t) :
    e = (a, v) ∨ e ∈ t := by
  induction t with
  | nil => simp [tableSet] at h; exact .inl h
  | cons x rest ih =>
    obtain ⟨b, u⟩ := x
    simp only [tableSet] at h
    split_ifs at h with h1 h2
    · simpa using h
    · rcases List.mem_cons.1 h with h | h
      · exact .inl h
      · exact .inr (List.mem_cons_of_mem _ h)
    · rcases List.mem_cons.1 h with h | h
      · exact .inr (h ▸ List.mem_cons_self)
      · exact (ih h).imp_right (List.mem_cons_of_mem _)

theorem mem_tableErase {a : Nat} {t : List (Nat × α)} {e : Nat × α} (h : e ∈ tableErase a t) : e ∈ t := by
  induction t with
  | nil => simp [tableErase] at h
  | cons x rest ih =>
    obtain ⟨b, u⟩ := x
    simp only [tableErase] at h
    split_ifs at h with h1
    · exact List.mem_cons_of_mem _ (ih h)
    · rcases List.mem_cons.1 h with h | h
      · exact h ▸ List.mem_cons_self
      · exact List.mem_cons_of_mem _ (ih h)

theorem tableSet_sorted (a : Nat) (v : α) (t : List (Nat × α)) (h : tableSorted t) : tableSorted (tableSet a v t) := by
  induction t with
  | nil => simp [tableSet, tableSorted]
  | cons x rest ih =>
    obtain ⟨b, u⟩ := x
    have hb := List.pairwise_cons.1 h
    simp only [tableSet]
    split_ifs with h1 h2
    · refine List.pairwise_cons.2 ⟨fun y hy => ?_, h⟩
      rcases List.mem_cons.1 hy with rfl | hy
      · exact h1
      · exact Nat.lt_trans h1 (hb.1 y hy)
    · subst h2; exact List.pairwise_cons.2 ⟨hb.1, hb.2⟩
    · refine List.pairwise_cons.2 ⟨fun y hy => ?_, ih hb.2⟩
      rcases mem_tableSet hy with rfl | hy
      · show b < a; omega
      · exact hb.1 y hy

theorem tableErase_sorted (a : Nat) (t : List (Nat × α)) (h : tableSorted t) : tableSorted (tableErase a t) := by
  induction t with
  | nil => simp [tableErase, tableSorted]
  | cons x rest ih =>
    obtain ⟨b, u⟩ := x
    have hb := List.pairwise_cons.1 h
    simp only [tableErase]
    split_ifs with h1
    · exact ih hb.2
    · exact List.pairwise_cons.2 ⟨fun y hy => hb.1 y (mem_tableErase hy), ih hb.2⟩

/-- A word written is the word read (also when it is the word an unlisted address reads as). -/
theorem read_write_same (m : Memory) (a : Address) (w : Word) : (m.write a w).read a = w := by
  unfold Memory.write Memory.read
  split_ifs with h
  · rw [tableGet_tableErase_same, h]; rfl
  · rw [tableGet_tableSet_same]; rfl

/-- A write leaves every other address alone. -/
theorem read_write_other (m : Memory) (a c : Address) (w : Word) (h : c ≠ a) : (m.write a w).read c = m.read c := by
  have hn : c.toNat ≠ a.toNat := fun e => h (BitVec.eq_of_toNat_eq e)
  unfold Memory.write Memory.read
  split_ifs with hw
  · rw [tableGet_tableErase_other _ _ _ hn]
  · rw [tableGet_tableSet_other _ _ _ _ hn]

/-- A write keeps the canonical form of the store. -/
theorem write_wf (m : Memory) (a : Address) (w : Word) (h : m.wf) : (m.write a w).wf := by
  obtain ⟨hs, he⟩ := h
  by_cases hw : w = 0
  · rw [Memory.write, if_pos hw]
    exact ⟨tableErase_sorted _ _ hs, fun e h => he e (mem_tableErase h)⟩
  · rw [Memory.write, if_neg hw]
    refine ⟨tableSet_sorted _ _ _ hs, fun e h => ?_⟩
    rcases mem_tableSet h with rfl | h
    · exact ⟨a.isLt, hw⟩
    · exact he e h

theorem reset_store_wf : State.reset.store.wf := by decide

end Sys2Proof.Laws
end

