-- ==== Sys2Proof/Laws/Load.lean ====
section
/-! SUPPORT. What the Word Store's operations can answer, and that what they build is in canonical form. -/

namespace Sys2Proof.Laws

open Sys2Proof Sys2Proof.Machine

/-- Everything reading one source can do (R241, R242). -/
theorem readSource_cases (id : SourceId) (count : Nat) (src : Source) :
    (src = none ∧ readSource id count src = .error (.sourceOpenFailure id)) ∨
    (∃ bytes, src = some bytes ∧ bytes.length < count ∧ readSource id count src = .error (.sourceReadFailure id)) ∨
    (∃ bytes, src = some bytes ∧ count ≤ bytes.length ∧ readSource id count src = .ok (bytes.take count)) := by
  cases src with
  | none => exact .inl ⟨rfl, rfl⟩
  | some bytes =>
    by_cases h : bytes.length < count
    · exact .inr (.inl ⟨bytes, rfl, h, by simp [readSource, h]⟩)
    · exact .inr (.inr ⟨bytes, rfl, Nat.le_of_not_lt h, by simp [readSource, h]⟩)

/-- Everything the load can do: end the run with a boundary error, or make store and table and start the listing. -/
theorem loadStore_cases (s : State) :
    (∃ f, readSources s.sources = .error f ∧ loadStore s = .fault f) ∨
    (∃ im, readSources s.sources = .ok im ∧
      loadStore s = .next { s with phase := .listing, store := buildStore im.nibbles,
                                   dispatch := buildDispatch im.dispatch, addr := 0, listing := [] }) := by
  cases h : readSources s.sources with
  | error f => exact .inl ⟨f, rfl, by simp only [loadStore, h, boundaryError]⟩
  | ok im => exact .inr ⟨im, rfl, by simp only [loadStore, h]⟩

/-- The entry that `buildStore` makes of an address keeps the address as its key and lists no zero word. -/
theorem buildStore_entry {nibbles : List (List Byte)} {a : Nat} {e : Nat × Word}
    (h : (if wordAt nibbles a = 0 then none else some (a, wordAt nibbles a)) = some e) : e.1 = a ∧ e.2 ≠ 0 := by
  split_ifs at h with hz
  cases h
  exact ⟨rfl, hz⟩

/-- The built store is in canonical form, whatever the sources hold. -/
theorem buildStore_wf (nibbles : List (List Byte)) : (buildStore nibbles).wf := by
  constructor
  · refine List.Pairwise.filterMap _ (fun a b hab x hx y hy => ?_) (List.pairwise_lt_range (n := Config.storeWords))
    obtain ⟨hx1, -⟩ := buildStore_entry hx
    obtain ⟨hy1, -⟩ := buildStore_entry hy
    show x.1 < y.1
    omega
  · intro e he
    obtain ⟨a, ha, hae⟩ := List.mem_filterMap.1 he
    obtain ⟨h1, h2⟩ := buildStore_entry hae
    exact ⟨h1 ▸ List.mem_range.1 ha, h2⟩

/-- Adding dispatch entries keeps the table in canonical form. -/
theorem addDispatch_wf (bytes : List Byte) (i : Nat) (t : DispatchTable) (h : DispatchTable.wf t) :
    DispatchTable.wf (addDispatch i t bytes) := by
  induction bytes generalizing i t with
  | nil => exact h
  | cons b rest ih =>
    refine ih _ _ ⟨tableSet_sorted _ _ _ h.1, fun e he => ?_⟩
    rcases mem_tableSet he with rfl | he
    · exact b.isLt
    · exact h.2 e he

/-- The built dispatch table is in canonical form. -/
theorem buildDispatch_wf (bytes : List Byte) : DispatchTable.wf (buildDispatch bytes) :=
  addDispatch_wf bytes 0 [] (by decide)

/-- Placing a word for the next fetch keeps the store's canonical form, and the next fetch takes that word. -/
theorem withFetchWord_wf (s : State) (nbits w : Nat) (h : s.store.wf) : (s.withFetchWord nbits w).store.wf :=
  write_wf _ _ _ h

theorem fetchWord_withFetchWord (s : State) (nbits w : Nat) :
    fetchWord (s.withFetchWord nbits w) = BitVec.ofNat 24 (w % 2 ^ nbits) :=
  read_write_same _ _ _

end Sys2Proof.Laws
end

