-- ==== Sys2Proof/Laws/PerInstr.lean ====
section
/-! SUPPORT. The per-instruction family TablePattern: the word that an instruction is encoded in shows, under the mask of
its row in spec/opcode_table.json, that row's match value (R57). One lemma for each constructor of Instr. -/

namespace Sys2Proof.Laws

open Sys2Proof Sys2Proof.Machine

/-- A well-formed instruction's word matches its row of the opcode table. -/
def TablePattern.Statement (i : Instr) : Prop := WellFormed i = true → encode i &&& rowMask i = rowMatch i

theorem TablePattern.mw24 (x : Fields) : TablePattern.Statement (.mw24 x) := fun _ => BitVec.and_zero

theorem TablePattern.aluF0S0 (path : SelPath) (a b : BitVec 4) (c : Bool) :
    TablePattern.Statement (.aluF0S0 path a b c) := fun _ =>
  (alu_pattern 0#3 0#3 path a b c).trans (by cases path <;> rfl)

theorem TablePattern.aluF0S1 (path : SelPath) (a b : BitVec 4) (c : Bool) :
    TablePattern.Statement (.aluF0S1 path a b c) := fun _ =>
  (alu_pattern 0#3 1#3 path a b c).trans (by cases path <;> rfl)

theorem TablePattern.aluF0S2 (path : SelPath) (a b : BitVec 4) (c : Bool) :
    TablePattern.Statement (.aluF0S2 path a b c) := fun _ =>
  (alu_pattern 0#3 2#3 path a b c).trans (by cases path <;> rfl)

theorem TablePattern.aluF0S3 (path : SelPath) (a b : BitVec 4) (c : Bool) :
    TablePattern.Statement (.aluF0S3 path a b c) := fun _ =>
  (alu_pattern 0#3 3#3 path a b c).trans (by cases path <;> rfl)

theorem TablePattern.aluF0S4 (path : SelPath) (a b : BitVec 4) (c : Bool) :
    TablePattern.Statement (.aluF0S4 path a b c) := fun _ =>
  (alu_pattern 0#3 4#3 path a b c).trans (by cases path <;> rfl)

theorem TablePattern.aluF0S5 (path : SelPath) (a b : BitVec 4) (c : Bool) :
    TablePattern.Statement (.aluF0S5 path a b c) := fun _ =>
  (alu_pattern 0#3 5#3 path a b c).trans (by cases path <;> rfl)

theorem TablePattern.aluF0S6 (path : SelPath) (a b : BitVec 4) (c : Bool) :
    TablePattern.Statement (.aluF0S6 path a b c) := fun _ =>
  (alu_pattern 0#3 6#3 path a b c).trans (by cases path <;> rfl)

theorem TablePattern.aluF0S7 (path : SelPath) (a b : BitVec 4) (c : Bool) :
    TablePattern.Statement (.aluF0S7 path a b c) := fun _ =>
  (alu_pattern 0#3 7#3 path a b c).trans (by cases path <;> rfl)

theorem TablePattern.aluF1S0 (path : SelPath) (a b : BitVec 4) (c : Bool) :
    TablePattern.Statement (.aluF1S0 path a b c) := fun _ =>
  (alu_pattern 1#3 0#3 path a b c).trans (by cases path <;> rfl)

theorem TablePattern.aluF1S1 (path : SelPath) (a b : BitVec 4) (c : Bool) :
    TablePattern.Statement (.aluF1S1 path a b c) := fun _ =>
  (alu_pattern 1#3 1#3 path a b c).trans (by cases path <;> rfl)

theorem TablePattern.aluF1S2 (path : SelPath) (a b : BitVec 4) (c : Bool) :
    TablePattern.Statement (.aluF1S2 path a b c) := fun _ =>
  (alu_pattern 1#3 2#3 path a b c).trans (by cases path <;> rfl)

theorem TablePattern.aluF1S3 (path : SelPath) (a b : BitVec 4) (c : Bool) :
    TablePattern.Statement (.aluF1S3 path a b c) := fun _ =>
  (alu_pattern 1#3 3#3 path a b c).trans (by cases path <;> rfl)

theorem TablePattern.aluF1S4 (path : SelPath) (a b : BitVec 4) (c : Bool) :
    TablePattern.Statement (.aluF1S4 path a b c) := fun _ =>
  (alu_pattern 1#3 4#3 path a b c).trans (by cases path <;> rfl)

theorem TablePattern.aluF1S5 (path : SelPath) (a b : BitVec 4) (c : Bool) :
    TablePattern.Statement (.aluF1S5 path a b c) := fun _ =>
  (alu_pattern 1#3 5#3 path a b c).trans (by cases path <;> rfl)

theorem TablePattern.aluF1S6 (path : SelPath) (a b : BitVec 4) (c : Bool) :
    TablePattern.Statement (.aluF1S6 path a b c) := fun _ =>
  (alu_pattern 1#3 6#3 path a b c).trans (by cases path <;> rfl)

theorem TablePattern.aluF1S7 (path : SelPath) (a b : BitVec 4) (c : Bool) :
    TablePattern.Statement (.aluF1S7 path a b c) := fun _ =>
  (alu_pattern 1#3 7#3 path a b c).trans (by cases path <;> rfl)

theorem TablePattern.aluF2S0 (path : SelPath) (a b : BitVec 4) (c : Bool) :
    TablePattern.Statement (.aluF2S0 path a b c) := fun _ =>
  (alu_pattern 2#3 0#3 path a b c).trans (by cases path <;> rfl)

theorem TablePattern.aluF2S1 (path : SelPath) (a b : BitVec 4) (c : Bool) :
    TablePattern.Statement (.aluF2S1 path a b c) := fun _ =>
  (alu_pattern 2#3 1#3 path a b c).trans (by cases path <;> rfl)

theorem TablePattern.aluF2S2 (path : SelPath) (a b : BitVec 4) (c : Bool) :
    TablePattern.Statement (.aluF2S2 path a b c) := fun _ =>
  (alu_pattern 2#3 2#3 path a b c).trans (by cases path <;> rfl)

theorem TablePattern.aluF2S3 (path : SelPath) (a b : BitVec 4) (c : Bool) :
    TablePattern.Statement (.aluF2S3 path a b c) := fun _ =>
  (alu_pattern 2#3 3#3 path a b c).trans (by cases path <;> rfl)

theorem TablePattern.aluF2S4 (path : SelPath) (a b : BitVec 4) (c : Bool) :
    TablePattern.Statement (.aluF2S4 path a b c) := fun _ =>
  (alu_pattern 2#3 4#3 path a b c).trans (by cases path <;> rfl)

theorem TablePattern.aluF2S5 (path : SelPath) (a b : BitVec 4) (c : Bool) :
    TablePattern.Statement (.aluF2S5 path a b c) := fun _ =>
  (alu_pattern 2#3 5#3 path a b c).trans (by cases path <;> rfl)

theorem TablePattern.aluF2S6 (path : SelPath) (a b : BitVec 4) (c : Bool) :
    TablePattern.Statement (.aluF2S6 path a b c) := fun _ =>
  (alu_pattern 2#3 6#3 path a b c).trans (by cases path <;> rfl)

theorem TablePattern.aluF2S7 (path : SelPath) (a b : BitVec 4) (c : Bool) :
    TablePattern.Statement (.aluF2S7 path a b c) := fun _ =>
  (alu_pattern 2#3 7#3 path a b c).trans (by cases path <;> rfl)

theorem TablePattern.aluF3S0 (path : SelPath) (a b : BitVec 4) (c : Bool) :
    TablePattern.Statement (.aluF3S0 path a b c) := fun _ =>
  (alu_pattern 3#3 0#3 path a b c).trans (by cases path <;> rfl)

theorem TablePattern.aluF3S1 (path : SelPath) (a b : BitVec 4) (c : Bool) :
    TablePattern.Statement (.aluF3S1 path a b c) := fun _ =>
  (alu_pattern 3#3 1#3 path a b c).trans (by cases path <;> rfl)

theorem TablePattern.aluF3S2 (path : SelPath) (a b : BitVec 4) (c : Bool) :
    TablePattern.Statement (.aluF3S2 path a b c) := fun _ =>
  (alu_pattern 3#3 2#3 path a b c).trans (by cases path <;> rfl)

theorem TablePattern.aluF3S3 (path : SelPath) (a b : BitVec 4) (c : Bool) :
    TablePattern.Statement (.aluF3S3 path a b c) := fun _ =>
  (alu_pattern 3#3 3#3 path a b c).trans (by cases path <;> rfl)

theorem TablePattern.aluF3S4 (path : SelPath) (a b : BitVec 4) (c : Bool) :
    TablePattern.Statement (.aluF3S4 path a b c) := fun _ =>
  (alu_pattern 3#3 4#3 path a b c).trans (by cases path <;> rfl)

theorem TablePattern.aluF3S5 (path : SelPath) (a b : BitVec 4) (c : Bool) :
    TablePattern.Statement (.aluF3S5 path a b c) := fun _ =>
  (alu_pattern 3#3 5#3 path a b c).trans (by cases path <;> rfl)

theorem TablePattern.aluF3S6 (path : SelPath) (a b : BitVec 4) (c : Bool) :
    TablePattern.Statement (.aluF3S6 path a b c) := fun _ =>
  (alu_pattern 3#3 6#3 path a b c).trans (by cases path <;> rfl)

theorem TablePattern.aluF3S7 (path : SelPath) (a b : BitVec 4) (c : Bool) :
    TablePattern.Statement (.aluF3S7 path a b c) := fun _ =>
  (alu_pattern 3#3 7#3 path a b c).trans (by cases path <;> rfl)

theorem TablePattern.aluF4S0 (path : SelPath) (a b : BitVec 4) (c : Bool) :
    TablePattern.Statement (.aluF4S0 path a b c) := fun _ =>
  (alu_pattern 4#3 0#3 path a b c).trans (by cases path <;> rfl)

theorem TablePattern.aluF4S1 (path : SelPath) (a b : BitVec 4) (c : Bool) :
    TablePattern.Statement (.aluF4S1 path a b c) := fun _ =>
  (alu_pattern 4#3 1#3 path a b c).trans (by cases path <;> rfl)

theorem TablePattern.aluF4S2 (path : SelPath) (a b : BitVec 4) (c : Bool) :
    TablePattern.Statement (.aluF4S2 path a b c) := fun _ =>
  (alu_pattern 4#3 2#3 path a b c).trans (by cases path <;> rfl)

theorem TablePattern.aluF4S3 (path : SelPath) (a b : BitVec 4) (c : Bool) :
    TablePattern.Statement (.aluF4S3 path a b c) := fun _ =>
  (alu_pattern 4#3 3#3 path a b c).trans (by cases path <;> rfl)

theorem TablePattern.aluF4S4 (path : SelPath) (a b : BitVec 4) (c : Bool) :
    TablePattern.Statement (.aluF4S4 path a b c) := fun _ =>
  (alu_pattern 4#3 4#3 path a b c).trans (by cases path <;> rfl)

theorem TablePattern.aluF4S5 (path : SelPath) (a b : BitVec 4) (c : Bool) :
    TablePattern.Statement (.aluF4S5 path a b c) := fun _ =>
  (alu_pattern 4#3 5#3 path a b c).trans (by cases path <;> rfl)

theorem TablePattern.aluF4S6 (path : SelPath) (a b : BitVec 4) (c : Bool) :
    TablePattern.Statement (.aluF4S6 path a b c) := fun _ =>
  (alu_pattern 4#3 6#3 path a b c).trans (by cases path <;> rfl)

theorem TablePattern.aluF4S7 (path : SelPath) (a b : BitVec 4) (c : Bool) :
    TablePattern.Statement (.aluF4S7 path a b c) := fun _ =>
  (alu_pattern 4#3 7#3 path a b c).trans (by cases path <;> rfl)

theorem TablePattern.aluF5S0 (path : SelPath) (a b : BitVec 4) (c : Bool) :
    TablePattern.Statement (.aluF5S0 path a b c) := fun _ =>
  (alu_pattern 5#3 0#3 path a b c).trans (by cases path <;> rfl)

theorem TablePattern.aluF5S1 (path : SelPath) (a b : BitVec 4) (c : Bool) :
    TablePattern.Statement (.aluF5S1 path a b c) := fun _ =>
  (alu_pattern 5#3 1#3 path a b c).trans (by cases path <;> rfl)

theorem TablePattern.aluF5S2 (path : SelPath) (a b : BitVec 4) (c : Bool) :
    TablePattern.Statement (.aluF5S2 path a b c) := fun _ =>
  (alu_pattern 5#3 2#3 path a b c).trans (by cases path <;> rfl)

theorem TablePattern.aluF5S3 (path : SelPath) (a b : BitVec 4) (c : Bool) :
    TablePattern.Statement (.aluF5S3 path a b c) := fun _ =>
  (alu_pattern 5#3 3#3 path a b c).trans (by cases path <;> rfl)

theorem TablePattern.aluF5S4 (path : SelPath) (a b : BitVec 4) (c : Bool) :
    TablePattern.Statement (.aluF5S4 path a b c) := fun _ =>
  (alu_pattern 5#3 4#3 path a b c).trans (by cases path <;> rfl)

theorem TablePattern.aluF5S5 (path : SelPath) (a b : BitVec 4) (c : Bool) :
    TablePattern.Statement (.aluF5S5 path a b c) := fun _ =>
  (alu_pattern 5#3 5#3 path a b c).trans (by cases path <;> rfl)

theorem TablePattern.aluF5S6 (path : SelPath) (a b : BitVec 4) (c : Bool) :
    TablePattern.Statement (.aluF5S6 path a b c) := fun _ =>
  (alu_pattern 5#3 6#3 path a b c).trans (by cases path <;> rfl)

theorem TablePattern.aluF5S7 (path : SelPath) (a b : BitVec 4) (c : Bool) :
    TablePattern.Statement (.aluF5S7 path a b c) := fun _ =>
  (alu_pattern 5#3 7#3 path a b c).trans (by cases path <;> rfl)

theorem TablePattern.aluF6S0 (path : SelPath) (a b : BitVec 4) (c : Bool) :
    TablePattern.Statement (.aluF6S0 path a b c) := fun _ =>
  (alu_pattern 6#3 0#3 path a b c).trans (by cases path <;> rfl)

theorem TablePattern.aluF6S1 (path : SelPath) (a b : BitVec 4) (c : Bool) :
    TablePattern.Statement (.aluF6S1 path a b c) := fun _ =>
  (alu_pattern 6#3 1#3 path a b c).trans (by cases path <;> rfl)

theorem TablePattern.aluF6S2 (path : SelPath) (a b : BitVec 4) (c : Bool) :
    TablePattern.Statement (.aluF6S2 path a b c) := fun _ =>
  (alu_pattern 6#3 2#3 path a b c).trans (by cases path <;> rfl)

theorem TablePattern.aluF6S3 (path : SelPath) (a b : BitVec 4) (c : Bool) :
    TablePattern.Statement (.aluF6S3 path a b c) := fun _ =>
  (alu_pattern 6#3 3#3 path a b c).trans (by cases path <;> rfl)

theorem TablePattern.aluF6S4 (path : SelPath) (a b : BitVec 4) (c : Bool) :
    TablePattern.Statement (.aluF6S4 path a b c) := fun _ =>
  (alu_pattern 6#3 4#3 path a b c).trans (by cases path <;> rfl)

theorem TablePattern.aluF6S5 (path : SelPath) (a b : BitVec 4) (c : Bool) :
    TablePattern.Statement (.aluF6S5 path a b c) := fun _ =>
  (alu_pattern 6#3 5#3 path a b c).trans (by cases path <;> rfl)

theorem TablePattern.aluF6S6 (path : SelPath) (a b : BitVec 4) (c : Bool) :
    TablePattern.Statement (.aluF6S6 path a b c) := fun _ =>
  (alu_pattern 6#3 6#3 path a b c).trans (by cases path <;> rfl)

theorem TablePattern.aluF6S7 (path : SelPath) (a b : BitVec 4) (c : Bool) :
    TablePattern.Statement (.aluF6S7 path a b c) := fun _ =>
  (alu_pattern 6#3 7#3 path a b c).trans (by cases path <;> rfl)

theorem TablePattern.aluF7S0 (path : SelPath) (a b : BitVec 4) (c : Bool) :
    TablePattern.Statement (.aluF7S0 path a b c) := fun _ =>
  (alu_pattern 7#3 0#3 path a b c).trans (by cases path <;> rfl)

theorem TablePattern.aluF7S1 (path : SelPath) (a b : BitVec 4) (c : Bool) :
    TablePattern.Statement (.aluF7S1 path a b c) := fun _ =>
  (alu_pattern 7#3 1#3 path a b c).trans (by cases path <;> rfl)

theorem TablePattern.aluF7S2 (path : SelPath) (a b : BitVec 4) (c : Bool) :
    TablePattern.Statement (.aluF7S2 path a b c) := fun _ =>
  (alu_pattern 7#3 2#3 path a b c).trans (by cases path <;> rfl)

theorem TablePattern.aluF7S3 (path : SelPath) (a b : BitVec 4) (c : Bool) :
    TablePattern.Statement (.aluF7S3 path a b c) := fun _ =>
  (alu_pattern 7#3 3#3 path a b c).trans (by cases path <;> rfl)

theorem TablePattern.aluF7S4 (path : SelPath) (a b : BitVec 4) (c : Bool) :
    TablePattern.Statement (.aluF7S4 path a b c) := fun _ =>
  (alu_pattern 7#3 4#3 path a b c).trans (by cases path <;> rfl)

theorem TablePattern.aluF7S5 (path : SelPath) (a b : BitVec 4) (c : Bool) :
    TablePattern.Statement (.aluF7S5 path a b c) := fun _ =>
  (alu_pattern 7#3 5#3 path a b c).trans (by cases path <;> rfl)

theorem TablePattern.aluF7S6 (path : SelPath) (a b : BitVec 4) (c : Bool) :
    TablePattern.Statement (.aluF7S6 path a b c) := fun _ =>
  (alu_pattern 7#3 6#3 path a b c).trans (by cases path <;> rfl)

theorem TablePattern.aluF7S7 (path : SelPath) (a b : BitVec 4) (c : Bool) :
    TablePattern.Statement (.aluF7S7 path a b c) := fun _ =>
  (alu_pattern 7#3 7#3 path a b c).trans (by cases path <;> rfl)

theorem TablePattern.dst0 (showY : Bool) (b : BitVec 4) : TablePattern.Statement (.dst0 showY b) := fun _ =>
  (dst_pattern 0#3 showY b).trans (by decide : _ = 0x0#24)

theorem TablePattern.dst1 (showY : Bool) (b : BitVec 4) : TablePattern.Statement (.dst1 showY b) := fun _ =>
  (dst_pattern 1#3 showY b).trans (by decide : _ = 0x10#24)

theorem TablePattern.dst2 (showY : Bool) (b : BitVec 4) : TablePattern.Statement (.dst2 showY b) := fun _ =>
  (dst_pattern 2#3 showY b).trans (by decide : _ = 0x20#24)

theorem TablePattern.dst3 (showY : Bool) (b : BitVec 4) : TablePattern.Statement (.dst3 showY b) := fun _ =>
  (dst_pattern 3#3 showY b).trans (by decide : _ = 0x30#24)

theorem TablePattern.dst4 (showY : Bool) (b : BitVec 4) : TablePattern.Statement (.dst4 showY b) := fun _ =>
  (dst_pattern 4#3 showY b).trans (by decide : _ = 0x40#24)

theorem TablePattern.dst5 (showY : Bool) (b : BitVec 4) : TablePattern.Statement (.dst5 showY b) := fun _ =>
  (dst_pattern 5#3 showY b).trans (by decide : _ = 0x50#24)

theorem TablePattern.dst6 (showY : Bool) (b : BitVec 4) : TablePattern.Statement (.dst6 showY b) := fun _ =>
  (dst_pattern 6#3 showY b).trans (by decide : _ = 0x60#24)

theorem TablePattern.dst7 (showY : Bool) (b : BitVec 4) : TablePattern.Statement (.dst7 showY b) := fun _ =>
  (dst_pattern 7#3 showY b).trans (by decide : _ = 0x70#24)

theorem TablePattern.jmpNone : TablePattern.Statement .jmpNone := fun _ => rfl

theorem TablePattern.jmpUncond (target : Option Address) : TablePattern.Statement (.jmpUncond target) := fun _ =>
  (jump_pattern false target).trans (by decide : _ = 0x000004#24)

theorem TablePattern.jmpCond (target : Option Address) : TablePattern.Statement (.jmpCond target) := fun _ =>
  (jump_pattern true target).trans (by decide : _ = 0x00000C#24)

theorem TablePattern.flagH : TablePattern.Statement .flagH := fun _ => rfl

theorem TablePattern.flagL : TablePattern.Statement .flagL := fun _ => rfl

theorem TablePattern.flagS : TablePattern.Statement .flagS := fun _ => rfl

theorem TablePattern.mux (f sh sl : BitVec 3) (a b : BitVec 4) (c : Bool) :
    TablePattern.Statement (.mux f sh sl a b c) := fun _ =>
  (mux_pattern f sh sl a b c).trans (by decide : _ = 0x000002#24)

theorem TablePattern.carry : TablePattern.Statement .carry := fun _ => rfl

theorem TablePattern.altSelectHigh (f : BitVec 3) (ss : BitVec 2) (a b : BitVec 4) (c : Bool) :
    TablePattern.Statement (.altSelectHigh f ss a b c) := fun _ =>
  (alt_high_pattern f ss a b c).trans ((by decide : ∀ t : BitVec 2, encodeFields
    { Fields.zero with sh := 1#1 ++ t, sl := (0#1 ++ t) &&& 4#3 } = 0x008000#24) ss)

theorem TablePattern.altSelectLow (f : BitVec 3) (ss : BitVec 2) (a b : BitVec 4) (c : Bool) :
    TablePattern.Statement (.altSelectLow f ss a b c) := fun _ =>
  (alt_low_pattern f ss a b c).trans ((by decide : ∀ t : BitVec 2, encodeFields
    { Fields.zero with sh := 0#1 ++ t, sl := (1#1 ++ t) &&& 4#3 } = 0x004000#24) ss)

theorem TablePattern.addrload (jaddr : Address) (bit6 jBit : Bool) :
    TablePattern.Statement (.addrload jaddr bit6 jBit) := fun _ =>
  (addrload_pattern jaddr bit6 jBit).trans (by decide : _ = 0x000090#24)

end Sys2Proof.Laws
end

