-- ==== Sys2Proof/Laws/State.lean ====
section
/-! SUPPORT. One lemma for each field of the state under each update, so that no later proof unfolds a record
update; and for the operations built of several updates, what each answers. -/

namespace Sys2Proof.Laws

open Sys2Proof Sys2Proof.Machine

variable (s : State)

/-! ### driveFields -/

@[simp] theorem driveFields_word (x : Fields) : (driveFields x s).block.word = s.block.word := rfl
@[simp] theorem driveFields_fields (x : Fields) : (driveFields x s).block.fields = x := rfl
@[simp] theorem driveFields_main (x : Fields) : (driveFields x s).block.main = s.block.main := rfl
@[simp] theorem driveFields_alt (x : Fields) : (driveFields x s).block.alt = s.block.alt := rfl
@[simp] theorem driveFields_mux (x : Fields) : (driveFields x s).block.mux = s.block.mux := rfl
@[simp] theorem driveFields_dest (x : Fields) : (driveFields x s).block.dest = s.block.dest := rfl
@[simp] theorem driveFields_addrLoad (x : Fields) : (driveFields x s).block.addrLoad = s.block.addrLoad := rfl
@[simp] theorem driveFields_jump (x : Fields) : (driveFields x s).block.jump = s.block.jump := rfl
@[simp] theorem driveFields_phase (x : Fields) : (driveFields x s).phase = s.phase := rfl
@[simp] theorem driveFields_sources (x : Fields) : (driveFields x s).sources = s.sources := rfl
@[simp] theorem driveFields_store (x : Fields) : (driveFields x s).store = s.store := rfl
@[simp] theorem driveFields_dispatch (x : Fields) : (driveFields x s).dispatch = s.dispatch := rfl
@[simp] theorem driveFields_addr (x : Fields) : (driveFields x s).addr = s.addr := rfl
@[simp] theorem driveFields_listing (x : Fields) : (driveFields x s).listing = s.listing := rfl

/-! ### driveMain -/

@[simp] theorem driveMain_word (e : Expr) : (driveMain e s).block.word = s.block.word := rfl
@[simp] theorem driveMain_fields (e : Expr) : (driveMain e s).block.fields = s.block.fields := rfl
@[simp] theorem driveMain_main (e : Expr) : (driveMain e s).block.main = some e := rfl
@[simp] theorem driveMain_alt (e : Expr) : (driveMain e s).block.alt = s.block.alt := rfl
@[simp] theorem driveMain_mux (e : Expr) : (driveMain e s).block.mux = s.block.mux := rfl
@[simp] theorem driveMain_dest (e : Expr) : (driveMain e s).block.dest = s.block.dest := rfl
@[simp] theorem driveMain_addrLoad (e : Expr) : (driveMain e s).block.addrLoad = s.block.addrLoad := rfl
@[simp] theorem driveMain_jump (e : Expr) : (driveMain e s).block.jump = s.block.jump := rfl
@[simp] theorem driveMain_phase (e : Expr) : (driveMain e s).phase = s.phase := rfl
@[simp] theorem driveMain_sources (e : Expr) : (driveMain e s).sources = s.sources := rfl
@[simp] theorem driveMain_store (e : Expr) : (driveMain e s).store = s.store := rfl
@[simp] theorem driveMain_dispatch (e : Expr) : (driveMain e s).dispatch = s.dispatch := rfl
@[simp] theorem driveMain_addr (e : Expr) : (driveMain e s).addr = s.addr := rfl
@[simp] theorem driveMain_listing (e : Expr) : (driveMain e s).listing = s.listing := rfl

/-! ### driveAlt -/

@[simp] theorem driveAlt_word (e : Expr) : (driveAlt e s).block.word = s.block.word := rfl
@[simp] theorem driveAlt_fields (e : Expr) : (driveAlt e s).block.fields = s.block.fields := rfl
@[simp] theorem driveAlt_main (e : Expr) : (driveAlt e s).block.main = s.block.main := rfl
@[simp] theorem driveAlt_alt (e : Expr) : (driveAlt e s).block.alt = some e := rfl
@[simp] theorem driveAlt_mux (e : Expr) : (driveAlt e s).block.mux = s.block.mux := rfl
@[simp] theorem driveAlt_dest (e : Expr) : (driveAlt e s).block.dest = s.block.dest := rfl
@[simp] theorem driveAlt_addrLoad (e : Expr) : (driveAlt e s).block.addrLoad = s.block.addrLoad := rfl
@[simp] theorem driveAlt_jump (e : Expr) : (driveAlt e s).block.jump = s.block.jump := rfl
@[simp] theorem driveAlt_phase (e : Expr) : (driveAlt e s).phase = s.phase := rfl
@[simp] theorem driveAlt_sources (e : Expr) : (driveAlt e s).sources = s.sources := rfl
@[simp] theorem driveAlt_store (e : Expr) : (driveAlt e s).store = s.store := rfl
@[simp] theorem driveAlt_dispatch (e : Expr) : (driveAlt e s).dispatch = s.dispatch := rfl
@[simp] theorem driveAlt_addr (e : Expr) : (driveAlt e s).addr = s.addr := rfl
@[simp] theorem driveAlt_listing (e : Expr) : (driveAlt e s).listing = s.listing := rfl

/-! ### driveMux -/

@[simp] theorem driveMux_word (m : MuxBranch) : (driveMux m s).block.word = s.block.word := rfl
@[simp] theorem driveMux_fields (m : MuxBranch) : (driveMux m s).block.fields = s.block.fields := rfl
@[simp] theorem driveMux_main (m : MuxBranch) : (driveMux m s).block.main = s.block.main := rfl
@[simp] theorem driveMux_alt (m : MuxBranch) : (driveMux m s).block.alt = s.block.alt := rfl
@[simp] theorem driveMux_mux (m : MuxBranch) : (driveMux m s).block.mux = some m := rfl
@[simp] theorem driveMux_dest (m : MuxBranch) : (driveMux m s).block.dest = s.block.dest := rfl
@[simp] theorem driveMux_addrLoad (m : MuxBranch) : (driveMux m s).block.addrLoad = s.block.addrLoad := rfl
@[simp] theorem driveMux_jump (m : MuxBranch) : (driveMux m s).block.jump = s.block.jump := rfl
@[simp] theorem driveMux_phase (m : MuxBranch) : (driveMux m s).phase = s.phase := rfl
@[simp] theorem driveMux_sources (m : MuxBranch) : (driveMux m s).sources = s.sources := rfl
@[simp] theorem driveMux_store (m : MuxBranch) : (driveMux m s).store = s.store := rfl
@[simp] theorem driveMux_dispatch (m : MuxBranch) : (driveMux m s).dispatch = s.dispatch := rfl
@[simp] theorem driveMux_addr (m : MuxBranch) : (driveMux m s).addr = s.addr := rfl
@[simp] theorem driveMux_listing (m : MuxBranch) : (driveMux m s).listing = s.listing := rfl

/-! ### driveDest -/

@[simp] theorem driveDest_word (d : DestPort) : (driveDest d s).block.word = s.block.word := rfl
@[simp] theorem driveDest_fields (d : DestPort) : (driveDest d s).block.fields = s.block.fields := rfl
@[simp] theorem driveDest_main (d : DestPort) : (driveDest d s).block.main = s.block.main := rfl
@[simp] theorem driveDest_alt (d : DestPort) : (driveDest d s).block.alt = s.block.alt := rfl
@[simp] theorem driveDest_mux (d : DestPort) : (driveDest d s).block.mux = s.block.mux := rfl
@[simp] theorem driveDest_dest (d : DestPort) : (driveDest d s).block.dest = some d := rfl
@[simp] theorem driveDest_addrLoad (d : DestPort) : (driveDest d s).block.addrLoad = s.block.addrLoad := rfl
@[simp] theorem driveDest_jump (d : DestPort) : (driveDest d s).block.jump = s.block.jump := rfl
@[simp] theorem driveDest_phase (d : DestPort) : (driveDest d s).phase = s.phase := rfl
@[simp] theorem driveDest_sources (d : DestPort) : (driveDest d s).sources = s.sources := rfl
@[simp] theorem driveDest_store (d : DestPort) : (driveDest d s).store = s.store := rfl
@[simp] theorem driveDest_dispatch (d : DestPort) : (driveDest d s).dispatch = s.dispatch := rfl
@[simp] theorem driveDest_addr (d : DestPort) : (driveDest d s).addr = s.addr := rfl
@[simp] theorem driveDest_listing (d : DestPort) : (driveDest d s).listing = s.listing := rfl

/-! ### driveAddrLoad -/

@[simp] theorem driveAddrLoad_word : (driveAddrLoad s).block.word = s.block.word := rfl
@[simp] theorem driveAddrLoad_fields : (driveAddrLoad s).block.fields = s.block.fields := rfl
@[simp] theorem driveAddrLoad_main : (driveAddrLoad s).block.main = s.block.main := rfl
@[simp] theorem driveAddrLoad_alt : (driveAddrLoad s).block.alt = s.block.alt := rfl
@[simp] theorem driveAddrLoad_mux : (driveAddrLoad s).block.mux = s.block.mux := rfl
@[simp] theorem driveAddrLoad_dest : (driveAddrLoad s).block.dest = s.block.dest := rfl
@[simp] theorem driveAddrLoad_addrLoad : (driveAddrLoad s).block.addrLoad = true := rfl
@[simp] theorem driveAddrLoad_jump : (driveAddrLoad s).block.jump = s.block.jump := rfl
@[simp] theorem driveAddrLoad_phase : (driveAddrLoad s).phase = s.phase := rfl
@[simp] theorem driveAddrLoad_sources : (driveAddrLoad s).sources = s.sources := rfl
@[simp] theorem driveAddrLoad_store : (driveAddrLoad s).store = s.store := rfl
@[simp] theorem driveAddrLoad_dispatch : (driveAddrLoad s).dispatch = s.dispatch := rfl
@[simp] theorem driveAddrLoad_addr : (driveAddrLoad s).addr = s.addr := rfl
@[simp] theorem driveAddrLoad_listing : (driveAddrLoad s).listing = s.listing := rfl

/-! ### driveJump -/

@[simp] theorem driveJump_word (j : JumpForm) : (driveJump j s).block.word = s.block.word := rfl
@[simp] theorem driveJump_fields (j : JumpForm) : (driveJump j s).block.fields = s.block.fields := rfl
@[simp] theorem driveJump_main (j : JumpForm) : (driveJump j s).block.main = s.block.main := rfl
@[simp] theorem driveJump_alt (j : JumpForm) : (driveJump j s).block.alt = s.block.alt := rfl
@[simp] theorem driveJump_mux (j : JumpForm) : (driveJump j s).block.mux = s.block.mux := rfl
@[simp] theorem driveJump_dest (j : JumpForm) : (driveJump j s).block.dest = s.block.dest := rfl
@[simp] theorem driveJump_addrLoad (j : JumpForm) : (driveJump j s).block.addrLoad = s.block.addrLoad := rfl
@[simp] theorem driveJump_jump (j : JumpForm) : (driveJump j s).block.jump = j := rfl
@[simp] theorem driveJump_phase (j : JumpForm) : (driveJump j s).phase = s.phase := rfl
@[simp] theorem driveJump_sources (j : JumpForm) : (driveJump j s).sources = s.sources := rfl
@[simp] theorem driveJump_store (j : JumpForm) : (driveJump j s).store = s.store := rfl
@[simp] theorem driveJump_dispatch (j : JumpForm) : (driveJump j s).dispatch = s.dispatch := rfl
@[simp] theorem driveJump_addr (j : JumpForm) : (driveJump j s).addr = s.addr := rfl
@[simp] theorem driveJump_listing (j : JumpForm) : (driveJump j s).listing = s.listing := rfl

/-! ### driveH -/

@[simp] theorem driveH_eq (v : Bool) :
    driveH v s = driveFields (Fields.mk s.block.fields.a s.block.fields.b s.block.fields.f s.block.fields.sh
      s.block.fields.sl s.block.fields.dst v s.block.fields.L s.block.fields.S s.block.fields.J s.block.fields.M s.block.fields.C) s := rfl

/-! ### driveL -/

@[simp] theorem driveL_eq (v : Bool) :
    driveL v s = driveFields (Fields.mk s.block.fields.a s.block.fields.b s.block.fields.f s.block.fields.sh
      s.block.fields.sl s.block.fields.dst s.block.fields.H v s.block.fields.S s.block.fields.J s.block.fields.M s.block.fields.C) s := rfl

/-! ### driveS -/

@[simp] theorem driveS_eq (v : Bool) :
    driveS v s = driveFields (Fields.mk s.block.fields.a s.block.fields.b s.block.fields.f s.block.fields.sh
      s.block.fields.sl s.block.fields.dst s.block.fields.H s.block.fields.L v s.block.fields.J s.block.fields.M s.block.fields.C) s := rfl

/-! ### driveJ -/

@[simp] theorem driveJ_eq (v : Bool) :
    driveJ v s = driveFields (Fields.mk s.block.fields.a s.block.fields.b s.block.fields.f s.block.fields.sh
      s.block.fields.sl s.block.fields.dst s.block.fields.H s.block.fields.L s.block.fields.S v s.block.fields.M s.block.fields.C) s := rfl

/-! ### driveM -/

@[simp] theorem driveM_eq (v : Bool) :
    driveM v s = driveFields (Fields.mk s.block.fields.a s.block.fields.b s.block.fields.f s.block.fields.sh
      s.block.fields.sl s.block.fields.dst s.block.fields.H s.block.fields.L s.block.fields.S s.block.fields.J v s.block.fields.C) s := rfl

/-! ### driveC -/

@[simp] theorem driveC_eq (v : Bool) :
    driveC v s = driveFields (Fields.mk s.block.fields.a s.block.fields.b s.block.fields.f s.block.fields.sh
      s.block.fields.sl s.block.fields.dst s.block.fields.H s.block.fields.L s.block.fields.S s.block.fields.J s.block.fields.M v) s := rfl

/-! ### driveLookup -/

@[simp] theorem driveLookup_high (e : Expr) : driveLookup .high e s = driveMain e s := rfl
@[simp] theorem driveLookup_low (e : Expr) : driveLookup .low e s = driveAlt e s := rfl

/-! ### presentWord -/

@[simp] theorem presentWord_word (w : Word) : (presentWord w s).block.word = some w := rfl
@[simp] theorem presentWord_fields (w : Word) : (presentWord w s).block.fields = Block.idle.fields := rfl
@[simp] theorem presentWord_main (w : Word) : (presentWord w s).block.main = Block.idle.main := rfl
@[simp] theorem presentWord_alt (w : Word) : (presentWord w s).block.alt = Block.idle.alt := rfl
@[simp] theorem presentWord_mux (w : Word) : (presentWord w s).block.mux = Block.idle.mux := rfl
@[simp] theorem presentWord_dest (w : Word) : (presentWord w s).block.dest = Block.idle.dest := rfl
@[simp] theorem presentWord_addrLoad (w : Word) : (presentWord w s).block.addrLoad = Block.idle.addrLoad := rfl
@[simp] theorem presentWord_jump (w : Word) : (presentWord w s).block.jump = Block.idle.jump := rfl
@[simp] theorem presentWord_phase (w : Word) : (presentWord w s).phase = s.phase := rfl
@[simp] theorem presentWord_sources (w : Word) : (presentWord w s).sources = s.sources := rfl
@[simp] theorem presentWord_store (w : Word) : (presentWord w s).store = s.store := rfl
@[simp] theorem presentWord_dispatch (w : Word) : (presentWord w s).dispatch = s.dispatch := rfl
@[simp] theorem presentWord_addr (w : Word) : (presentWord w s).addr = s.addr := rfl
@[simp] theorem presentWord_listing (w : Word) : (presentWord w s).listing = s.listing := rfl

/-- Presenting a word makes the block the same whatever it held before (R3, R10). -/
theorem presentWord_block (w : Word) (t : State) : (presentWord w s).block = (presentWord w t).block := rfl

/-! ### runRows -/

@[simp] theorem runRows_nil : runRows [] s = .next s := rfl

/-- Running a row that answers a next state goes on with the rest from it. -/
theorem runRows_cons (i : Instr) (rest : List Instr) (t : State) (h : exec i s = .next t) :
    runRows (i :: rest) s = runRows rest t := by
  simp only [runRows, h]

/-- Running two lists of rows one after the other. -/
theorem runRows_append (l₁ l₂ : List Instr) (t : State) (h : runRows l₁ s = .next t) :
    runRows (l₁ ++ l₂) s = runRows l₂ t := by
  induction l₁ generalizing s with
  | nil => simp only [runRows, Host.Outcome.next.injEq] at h; subst h; rfl
  | cons i rest ih =>
    simp only [runRows, List.cons_append] at h ⊢
    cases hi : exec i s with
    | next u => simp only [hi] at h ⊢; exact ih u h
    | fault f => simp only [hi] at h; cases h
    | refused r => simp only [hi] at h; cases h

end Sys2Proof.Laws
end

