-- ==== Sys2Proof/Tests/Slice0.lean ====
section
/-! SUPPORT. The model's own tests. Expected values are the spec's (spec/95_test_vectors.md and the examples of the rules) or
worked by hand from its encoding; the witnesses show that the hypotheses of the statements can be met. -/

namespace Sys2Proof.Tests

open Sys2Proof Sys2Proof.Machine

/-! ### Helpers -/

/-- The state right before the word is presented as the first one after reset. -/
def at0 (w : Nat) : State := State.reset.withFetchWord 24 w

/-- A view of the block after one step, `none` if the step stops. -/
def after {α : Type} (view : Block → α) (s : State) : Option α :=
  match step s with
  | .next t => some (view t.block)
  | _ => none

/-- How a step stops, if it does. -/
def stopOf (s : State) : Option Fault :=
  match step s with
  | .fault f => some f
  | _ => none

/-- Whether a step answers a next state. -/
def goesOn (s : State) : Bool :=
  match step s with
  | .next _ => true
  | _ => false

/-- The body columns of words, each presented after reset. -/
def bodies (ws : List Nat) : List (Option String) := ws.map fun w => after bodyCol (at0 w)

/-- The lines of words, each presented after reset. -/
def linesOf (ws : List Nat) : List (Option String) := ws.map fun w => after line (at0 w)

/-- A source of `n` zero bytes. -/
def zeros (n : Nat) : Source := some (List.replicate n 0)

/-- Seven sources of exactly the expected counts, every byte 0. -/
def goodSources : Sources :=
  { n0 := zeros 256, n1 := zeros 256, n2 := zeros 256, n3 := zeros 256, n4 := zeros 256, n5 := zeros 256,
    dispatch := zeros 32 }

/-- Good sources but for one surplus byte of the dispatch source, the only one that names address 0x41. -/
def surplusDispatch : Sources := { goodSources with dispatch := some (List.replicate 32 0x40 ++ [0x41]) }

/-- A run before its load with the given sources. -/
def beforeLoad (sources : Sources) : State := { State.reset with sources := sources }

/-- A finished run over an empty store. -/
def finished : State := { State.reset with phase := .done, listing := rowsUpTo [] [] 256 }

/-! ### WellFormed refuses what no word holds (R96) -/

theorem test_wellFormed_refuses_mw24_with_disagreeing_selects :
    WellFormed (.mw24 { Fields.zero with sh := 1, sl := 2 }) = false := by decide

theorem test_wellFormed_accepts_mw24_with_agreeing_selects :
    WellFormed (.mw24 { Fields.zero with sh := 6, sl := 2 }) = true := by decide

theorem test_wellFormed_refuses_mux_with_disagreeing_selects :
    WellFormed (.mux 0 4 3 0 0 false) = false := by decide

theorem test_wellFormed_accepts_mux_with_agreeing_selects :
    WellFormed (.mux 0 4 0 0 0 false) = true := by decide

/-! ### Decode: every row of the opcode table from a word written out by the field table (R51)

`a = 3` and `b = 5` in bits 23:16, `f` in bits 10:8, the select bits in 15:12. On the high path bits 15 and 14 are equal, so one
code reaches the ROM; on the low path they differ and `C` is set, so that the rows are format, CARRY, main lookup,
ALT_SELECT, alternate lookup. -/

theorem test_decode_alu_f0_main :
    [0x350000#24, 0x351000#24, 0x352000#24, 0x353000#24, 0x35C000#24, 0x35D000#24, 0x35E000#24, 0x35F000#24].map
        (fun w => (decodeRows w)[1]?) =
      [some (.aluF0S0 .high 3 5 false), some (.aluF0S1 .high 3 5 false), some (.aluF0S2 .high 3 5 false), some (.aluF0S3 .high 3 5 false),
       some (.aluF0S4 .high 3 5 false), some (.aluF0S5 .high 3 5 false), some (.aluF0S6 .high 3 5 false), some (.aluF0S7 .high 3 5 false)] := by decide

theorem test_decode_alu_f0_alternate :
    [0x358001#24, 0x359001#24, 0x35A001#24, 0x35B001#24, 0x354001#24, 0x355001#24, 0x356001#24, 0x357001#24].map
        (fun w => (decodeRows w)[4]?) =
      [some (.aluF0S0 .low 3 5 true), some (.aluF0S1 .low 3 5 true), some (.aluF0S2 .low 3 5 true), some (.aluF0S3 .low 3 5 true),
       some (.aluF0S4 .low 3 5 true), some (.aluF0S5 .low 3 5 true), some (.aluF0S6 .low 3 5 true), some (.aluF0S7 .low 3 5 true)] := by decide

theorem test_decode_alu_f1_main :
    [0x350100#24, 0x351100#24, 0x352100#24, 0x353100#24, 0x35C100#24, 0x35D100#24, 0x35E100#24, 0x35F100#24].map
        (fun w => (decodeRows w)[1]?) =
      [some (.aluF1S0 .high 3 5 false), some (.aluF1S1 .high 3 5 false), some (.aluF1S2 .high 3 5 false), some (.aluF1S3 .high 3 5 false),
       some (.aluF1S4 .high 3 5 false), some (.aluF1S5 .high 3 5 false), some (.aluF1S6 .high 3 5 false), some (.aluF1S7 .high 3 5 false)] := by decide

theorem test_decode_alu_f1_alternate :
    [0x358101#24, 0x359101#24, 0x35A101#24, 0x35B101#24, 0x354101#24, 0x355101#24, 0x356101#24, 0x357101#24].map
        (fun w => (decodeRows w)[4]?) =
      [some (.aluF1S0 .low 3 5 true), some (.aluF1S1 .low 3 5 true), some (.aluF1S2 .low 3 5 true), some (.aluF1S3 .low 3 5 true),
       some (.aluF1S4 .low 3 5 true), some (.aluF1S5 .low 3 5 true), some (.aluF1S6 .low 3 5 true), some (.aluF1S7 .low 3 5 true)] := by decide

theorem test_decode_alu_f2_main :
    [0x350200#24, 0x351200#24, 0x352200#24, 0x353200#24, 0x35C200#24, 0x35D200#24, 0x35E200#24, 0x35F200#24].map
        (fun w => (decodeRows w)[1]?) =
      [some (.aluF2S0 .high 3 5 false), some (.aluF2S1 .high 3 5 false), some (.aluF2S2 .high 3 5 false), some (.aluF2S3 .high 3 5 false),
       some (.aluF2S4 .high 3 5 false), some (.aluF2S5 .high 3 5 false), some (.aluF2S6 .high 3 5 false), some (.aluF2S7 .high 3 5 false)] := by decide

theorem test_decode_alu_f2_alternate :
    [0x358201#24, 0x359201#24, 0x35A201#24, 0x35B201#24, 0x354201#24, 0x355201#24, 0x356201#24, 0x357201#24].map
        (fun w => (decodeRows w)[4]?) =
      [some (.aluF2S0 .low 3 5 true), some (.aluF2S1 .low 3 5 true), some (.aluF2S2 .low 3 5 true), some (.aluF2S3 .low 3 5 true),
       some (.aluF2S4 .low 3 5 true), some (.aluF2S5 .low 3 5 true), some (.aluF2S6 .low 3 5 true), some (.aluF2S7 .low 3 5 true)] := by decide

theorem test_decode_alu_f3_main :
    [0x350300#24, 0x351300#24, 0x352300#24, 0x353300#24, 0x35C300#24, 0x35D300#24, 0x35E300#24, 0x35F300#24].map
        (fun w => (decodeRows w)[1]?) =
      [some (.aluF3S0 .high 3 5 false), some (.aluF3S1 .high 3 5 false), some (.aluF3S2 .high 3 5 false), some (.aluF3S3 .high 3 5 false),
       some (.aluF3S4 .high 3 5 false), some (.aluF3S5 .high 3 5 false), some (.aluF3S6 .high 3 5 false), some (.aluF3S7 .high 3 5 false)] := by decide

theorem test_decode_alu_f3_alternate :
    [0x358301#24, 0x359301#24, 0x35A301#24, 0x35B301#24, 0x354301#24, 0x355301#24, 0x356301#24, 0x357301#24].map
        (fun w => (decodeRows w)[4]?) =
      [some (.aluF3S0 .low 3 5 true), some (.aluF3S1 .low 3 5 true), some (.aluF3S2 .low 3 5 true), some (.aluF3S3 .low 3 5 true),
       some (.aluF3S4 .low 3 5 true), some (.aluF3S5 .low 3 5 true), some (.aluF3S6 .low 3 5 true), some (.aluF3S7 .low 3 5 true)] := by decide

theorem test_decode_alu_f4_main :
    [0x350400#24, 0x351400#24, 0x352400#24, 0x353400#24, 0x35C400#24, 0x35D400#24, 0x35E400#24, 0x35F400#24].map
        (fun w => (decodeRows w)[1]?) =
      [some (.aluF4S0 .high 3 5 false), some (.aluF4S1 .high 3 5 false), some (.aluF4S2 .high 3 5 false), some (.aluF4S3 .high 3 5 false),
       some (.aluF4S4 .high 3 5 false), some (.aluF4S5 .high 3 5 false), some (.aluF4S6 .high 3 5 false), some (.aluF4S7 .high 3 5 false)] := by decide

theorem test_decode_alu_f4_alternate :
    [0x358401#24, 0x359401#24, 0x35A401#24, 0x35B401#24, 0x354401#24, 0x355401#24, 0x356401#24, 0x357401#24].map
        (fun w => (decodeRows w)[4]?) =
      [some (.aluF4S0 .low 3 5 true), some (.aluF4S1 .low 3 5 true), some (.aluF4S2 .low 3 5 true), some (.aluF4S3 .low 3 5 true),
       some (.aluF4S4 .low 3 5 true), some (.aluF4S5 .low 3 5 true), some (.aluF4S6 .low 3 5 true), some (.aluF4S7 .low 3 5 true)] := by decide

theorem test_decode_alu_f5_main :
    [0x350500#24, 0x351500#24, 0x352500#24, 0x353500#24, 0x35C500#24, 0x35D500#24, 0x35E500#24, 0x35F500#24].map
        (fun w => (decodeRows w)[1]?) =
      [some (.aluF5S0 .high 3 5 false), some (.aluF5S1 .high 3 5 false), some (.aluF5S2 .high 3 5 false), some (.aluF5S3 .high 3 5 false),
       some (.aluF5S4 .high 3 5 false), some (.aluF5S5 .high 3 5 false), some (.aluF5S6 .high 3 5 false), some (.aluF5S7 .high 3 5 false)] := by decide

theorem test_decode_alu_f5_alternate :
    [0x358501#24, 0x359501#24, 0x35A501#24, 0x35B501#24, 0x354501#24, 0x355501#24, 0x356501#24, 0x357501#24].map
        (fun w => (decodeRows w)[4]?) =
      [some (.aluF5S0 .low 3 5 true), some (.aluF5S1 .low 3 5 true), some (.aluF5S2 .low 3 5 true), some (.aluF5S3 .low 3 5 true),
       some (.aluF5S4 .low 3 5 true), some (.aluF5S5 .low 3 5 true), some (.aluF5S6 .low 3 5 true), some (.aluF5S7 .low 3 5 true)] := by decide

theorem test_decode_alu_f6_main :
    [0x350600#24, 0x351600#24, 0x352600#24, 0x353600#24, 0x35C600#24, 0x35D600#24, 0x35E600#24, 0x35F600#24].map
        (fun w => (decodeRows w)[1]?) =
      [some (.aluF6S0 .high 3 5 false), some (.aluF6S1 .high 3 5 false), some (.aluF6S2 .high 3 5 false), some (.aluF6S3 .high 3 5 false),
       some (.aluF6S4 .high 3 5 false), some (.aluF6S5 .high 3 5 false), some (.aluF6S6 .high 3 5 false), some (.aluF6S7 .high 3 5 false)] := by decide

theorem test_decode_alu_f6_alternate :
    [0x358601#24, 0x359601#24, 0x35A601#24, 0x35B601#24, 0x354601#24, 0x355601#24, 0x356601#24, 0x357601#24].map
        (fun w => (decodeRows w)[4]?) =
      [some (.aluF6S0 .low 3 5 true), some (.aluF6S1 .low 3 5 true), some (.aluF6S2 .low 3 5 true), some (.aluF6S3 .low 3 5 true),
       some (.aluF6S4 .low 3 5 true), some (.aluF6S5 .low 3 5 true), some (.aluF6S6 .low 3 5 true), some (.aluF6S7 .low 3 5 true)] := by decide

theorem test_decode_alu_f7_main :
    [0x350700#24, 0x351700#24, 0x352700#24, 0x353700#24, 0x35C700#24, 0x35D700#24, 0x35E700#24, 0x35F700#24].map
        (fun w => (decodeRows w)[1]?) =
      [some (.aluF7S0 .high 3 5 false), some (.aluF7S1 .high 3 5 false), some (.aluF7S2 .high 3 5 false), some (.aluF7S3 .high 3 5 false),
       some (.aluF7S4 .high 3 5 false), some (.aluF7S5 .high 3 5 false), some (.aluF7S6 .high 3 5 false), some (.aluF7S7 .high 3 5 false)] := by decide

theorem test_decode_alu_f7_alternate :
    [0x358701#24, 0x359701#24, 0x35A701#24, 0x35B701#24, 0x354701#24, 0x355701#24, 0x356701#24, 0x357701#24].map
        (fun w => (decodeRows w)[4]?) =
      [some (.aluF7S0 .low 3 5 true), some (.aluF7S1 .low 3 5 true), some (.aluF7S2 .low 3 5 true), some (.aluF7S3 .low 3 5 true),
       some (.aluF7S4 .low 3 5 true), some (.aluF7S5 .low 3 5 true), some (.aluF7S6 .low 3 5 true), some (.aluF7S7 .low 3 5 true)] := by decide

/-- Bits 6:4 are `dst`; here `H` (bit 11) sets `showY` in the last four. -/
theorem test_decode_destinations :
    [0x350000#24, 0x350010#24, 0x350020#24, 0x350030#24, 0x350840#24, 0x350850#24, 0x350860#24, 0x350870#24].map
        (fun w => (decodeRows w).filter (fun i => decide (drives i = [.dest]))) =
      [[.dst0 false 5], [.dst1 false 5], [.dst2 false 5], [.dst3 false 5],
       [.dst4 true 5], [.dst5 true 5], [.dst6 true 5], [.dst7 true 5]] := by decide

/-- Bit 2 is `J`, bit 3 `S`, bit 7 `L`: section 2.7. -/
theorem test_decode_jumps :
    [0x2A0000#24, 0x2A0088#24, 0x2A0004#24, 0x2A0084#24, 0x2A000C#24, 0x2A008C#24].map (fun w => (decodeRows w).getLast?) =
      [some .jmpNone, some .jmpNone, some (.jmpUncond none), some (.jmpUncond (some 0x2A)), some (.jmpCond none),
       some (.jmpCond (some 0x2A))] := by decide

/-- Bit 0 is `C`, bit 11 `H`, bit 7 `L`, bit 3 `S`. -/
theorem test_decode_flags_and_carry :
    [0x000001#24, 0x000800#24, 0x000080#24, 0x000008#24].map (fun w => (decodeRows w)[1]?) =
      [some .carry, some .flagH, some .flagL, some .flagS] := by decide

/-- Bit 1 is `M`; bits 15:12 are 0111 (`sh = 3`, `sl = 7`) and `f = 4`: section 2.5. -/
theorem test_decode_mux : (decodeRows 0x357402#24)[4]? = some (.mux 4 3 7 3 5 false) := by decide

/-- Bits 15:12 are 1010 (first pattern) and 0110 (second). -/
theorem test_decode_altSelect_both_patterns :
    (decodeRows 0x35A201#24)[3]? = some (.altSelectHigh 2 2 3 5 true) ∧
    (decodeRows 0x356302#24)[2]? = some (.altSelectLow 3 2 3 5 false) := by decide

/-- The four matching low halves of section 2.8. -/
theorem test_decode_addrload :
    [0x2A0090#24, 0x2A0094#24, 0x2A00D0#24, 0x2A00D4#24].map (fun w => (decodeRows w)[2]?) =
      [some (.addrload 0x2A false false), some (.addrload 0x2A false true), some (.addrload 0x2A true false),
       some (.addrload 0x2A true true)] := by decide

/-- The format row of the running example: section 2.1. -/
theorem test_decode_format :
    (decodeRows 0x35A2CD#24)[0]? = some (.mw24
      { a := 3, b := 5, f := 2, sh := 6, sl := 2, dst := 4, H := false, L := true, S := true, J := true, M := false,
        C := true }) := by decide

/-- The sixteen values of bits 15:12: section 2.1. -/
theorem test_select_codes :
    (List.range 16).map (fun v => ((selectHigh (BitVec.ofNat 24 (v * 4096))).toNat, (selectLow (BitVec.ofNat 24 (v * 4096))).toNat)) =
      [(0, 0), (1, 1), (2, 2), (3, 3), (0, 4), (1, 5), (2, 6), (3, 7), (4, 0), (5, 1), (6, 2), (7, 3), (4, 4), (5, 5), (6, 6),
       (7, 7)] := by decide

theorem test_decode_all_ones :
    decodedOf (decodeFields 0xFFFFFF) =
      { a := 15, b := 15, f := 7, sh := 7, sl := 7, dst := 7, H := true, L := true, S := true, J := true, M := true, C := true,
        jaddr := 255, jvalid := true, eos := true, showY := true } := by decide

theorem test_lead_row_of_table_words :
    decodeTableWord 24 0x000000 = some (.aluF0S0 .high 0 0 false) ∧
    decodeTableWord 24 0x000010 = some (.dst1 false 0) ∧
    decodeTableWord 24 0x00000C = some (.jmpCond none) ∧
    decodeTableWord 24 0x000002 = some (.mux 0 0 0 0 0 false) ∧
    decodeTableWord 24 0x008000 = some (.aluF0S4 .high 0 0 false) ∧
    decodeTableWord 24 0x004000 = some (.altSelectLow 0 0 0 0 false) := by decide

/-! ### The ROM, both carries, `a = 3`, `b = 5`: section 2.3 -/

theorem test_rom_row_0 :
    [0#3, 1#3, 2#3, 3#3, 4#3, 5#3, 6#3, 7#3].map
        (fun s => (exprText (render 0 s 3 5 false), exprText (render 0 s 3 5 true))) =
      [("R3 + q", "R3 + q + 1"), ("R3 + R5", "R3 + R5 + 1"), ("q", "q + 1"), ("R5", "R5 + 1"),
       ("R3", "R3 + 1"), ("d + R3", "d + R3 + 1"), ("d + q", "d + q + 1"), ("d", "d + 1")] := by decide

theorem test_rom_row_1 :
    [0#3, 1#3, 2#3, 3#3, 4#3, 5#3, 6#3, 7#3].map
        (fun s => (exprText (render 1 s 3 5 false), exprText (render 1 s 3 5 true))) =
      [("q - R3 - 1", "q - R3"), ("R5 - R3 - 1", "R5 - R3"), ("q - 1", "q"), ("R5 - 1", "R5"),
       ("R3 - 1", "R3"), ("R3 - d - 1", "R3 - d"), ("q - d - 1", "q - d"), ("-d - 1", "-d")] := by decide

theorem test_rom_row_2 :
    [0#3, 1#3, 2#3, 3#3, 4#3, 5#3, 6#3, 7#3].map
        (fun s => (exprText (render 2 s 3 5 false), exprText (render 2 s 3 5 true))) =
      [("R3 - q - 1", "R3 - q"), ("R3 - R5 - 1", "R3 - R5"), ("-q - 1", "-q"), ("-R5 - 1", "-R5"),
       ("-R3 - 1", "-R3"), ("d - R3 - 1", "d - R3"), ("d - q - 1", "d - q"), ("d - 1", "d")] := by decide

theorem test_rom_row_3 :
    [0#3, 1#3, 2#3, 3#3, 4#3, 5#3, 6#3, 7#3].map
        (fun s => (exprText (render 3 s 3 5 false), exprText (render 3 s 3 5 true))) =
      [("R3 | q", "R3 | q"), ("R3 | R5", "R3 | R5"), ("q", "q"), ("R5", "R5"),
       ("R3", "R3"), ("d | R3", "d | R3"), ("d | q", "d | q"), ("d", "d")] := by decide

theorem test_rom_row_4 :
    [0#3, 1#3, 2#3, 3#3, 4#3, 5#3, 6#3, 7#3].map
        (fun s => (exprText (render 4 s 3 5 false), exprText (render 4 s 3 5 true))) =
      [("R3 & q", "R3 & q"), ("R3 & R5", "R3 & R5"), ("0", "0"), ("0", "0"),
       ("0", "0"), ("d & R3", "d & R3"), ("d & q", "d & q"), ("0", "0")] := by decide

theorem test_rom_row_5 :
    [0#3, 1#3, 2#3, 3#3, 4#3, 5#3, 6#3, 7#3].map
        (fun s => (exprText (render 5 s 3 5 false), exprText (render 5 s 3 5 true))) =
      [("!R3 & q", "!R3 & q"), ("!R3 & R5", "!R3 & R5"), ("q", "q"), ("R5", "R5"),
       ("R3", "R3"), ("!d & R3", "!d & R3"), ("!d & q", "!d & q"), ("0", "0")] := by decide

theorem test_rom_row_6 :
    [0#3, 1#3, 2#3, 3#3, 4#3, 5#3, 6#3, 7#3].map
        (fun s => (exprText (render 6 s 3 5 false), exprText (render 6 s 3 5 true))) =
      [("R3 ^ q", "R3 ^ q"), ("R3 ^ R5", "R3 ^ R5"), ("q", "q"), ("R5", "R5"),
       ("R3", "R3"), ("d ^ R3", "d ^ R3"), ("d ^ q", "d ^ q"), ("d", "d")] := by decide

theorem test_rom_row_7 :
    [0#3, 1#3, 2#3, 3#3, 4#3, 5#3, 6#3, 7#3].map
        (fun s => (exprText (render 7 s 3 5 false), exprText (render 7 s 3 5 true))) =
      [("!R3 ^ q", "!R3 ^ q"), ("!R3 ^ R5", "!R3 ^ R5"), ("!q", "!q"), ("!R5", "!R5"),
       ("!R3", "!R3"), ("!d & R3", "!d & R3"), ("!d & q", "!d & q"), ("!d", "!d")] := by decide

/-- Corners of the text function: section 2.3. -/
theorem test_rom_corners :
    [exprText (render 0 1 4 4 true), exprText (render 0 1 10 11 true), exprText (render 1 1 10 11 false),
     exprText (render 0 1 0 15 false), exprText (render 7 5 2 0 false), exprText (render 7 6 2 0 true)] =
      ["R4 + R4 + 1", "R10 + R11 + 1", "R11 - R10 - 1", "R0 + R15", "!d & R2", "!d & q"] := by decide

/-! ### Destination prefixes, `b = 12`: section 2.4 -/

theorem test_prefix_showY_0 :
    [0#3, 1#3, 2#3, 3#3, 4#3, 5#3, 6#3, 7#3].map (fun k => prefixText (destTable false k) 12) =
      ["q = (", "(", "R12 = (", "R12 = (", "q, R12 = 1/2*(", "R12 = 1/2*(", "q, R12 = 2*(", "R12 = 2*("] := by decide

theorem test_prefix_showY_1 :
    [0#3, 1#3, 2#3, 3#3, 4#3, 5#3, 6#3, 7#3].map (fun k => prefixText (destTable true k) 12) =
      ["y, q = (", "y = (", "y, R12 = (", "y, R12 = (", "y, q, R12 = 1/2*(", "y, R12 = 1/2*(", "y, q, R12 = 2*(", "y, R12 = 2*("] := by decide

/-! ### Whole steps -/

/-- Alternate and multiplexer: section 2.5. -/
theorem test_step_select_logic :
    bodies [0x358000, 0x358002, 0x357003, 0x35B400, 0x357402, 0x359702, 0x35F603] =
      [some "q = (R3, R3 + q)",
       some "q = (R3, R3 + q : d + q, q)",
       some "q = (R5 + 1, d + 1 : R3 + R5 + 1, d + R3 + 1)",
       some "q = (0, 0)",
       some "q = (0, 0 : R3 & R5, d & R3)",
       some "q = (!d & R3, !R3 ^ R5 : !d, !R5)",
       some "q = (d : d ^ R3)"] := by decide

/-- Flag letters: section 2.6. -/
theorem test_step_flag_letters :
    linesOf [0x000000, 0x000080, 0x000008, 0x000800, 0x000888] =
      [some "     q = (R0 + q)",
       some "  L  q = (R0 + q)",
       some " S   q = (R0 + q)",
       some "H    y, q = (R0 + q)",
       some "HSL  y, q = (R0 + q)"] := by decide

/-- Whole lines: section 2.9. -/
theorem test_step_whole_lines :
    linesOf [0xFFFFFF, 0x35A2CD, 0x123456, 0x0F0F0F, 0xAAAAAA, 0x18B8FF, 0x1332A1] =
      [some "HSL (->ff) y, R15 = 2*(!d : !d & R15)",
       some " SL (->35) y, q, R5 = 1/2*(d - q, -q)",
       some "    ->?? R2 = 1/2*(0 : R1 & R2)",
       some "HS  (->??) y, q = (!R0 ^ q : !q)",
       some "HSL  y, R10 = (d - q - 1, -q - 1 : -R10 - 1, R10 - q - 1)",
       some "HSL (->18) y, R8 = 2*(d + 1, R8 + 1 : d + R1 + 1, R1 + R8 + 1)",
       some "  L  R3 = (-R3)"] := by decide

/-- Address-load lines: section 2.8. -/
theorem test_step_addrload :
    linesOf [0x2A0090, 0x2A0094, 0x2A00D0, 0x2A00D4] =
      [some "  L  address-load, no ALU operation",
       some "  L ->2a address-load, no ALU operation",
       some "  L  address-load, no ALU operation",
       some "  L ->2a address-load, no ALU operation"] := by decide

/-- One checked bit of the sentinel flipped: section 2.8. -/
theorem test_step_near_addrload :
    bodies [0x000091, 0x000080, 0x000010, 0x000190, 0x008090] =
      [some "(R0 + q + 1)",
       some "q = (R0 + q)",
       some "(R0 + q)",
       some "(q - R0 - 1)",
       some "(R0, R0 + q)"] := by decide

/-- The jump column, `eos` and the listing row of a conditional jump: sections 2.7 and 2.9. -/
theorem test_step_outputs_of_a_conditional_jump :
    after (fun k => (jumpCol k, k.jump, eos k, k.fields.showY, k.mux)) (at0 0x2A008C) =
      some ("(->2a)", .cond (some 0x2A), false, true, none) := by decide

/-- The row put out: label none, address 0, a blank line after (`eos`). The address moves up and the store stays. -/
theorem test_step_lists_a_row :
    step (at0 0x2A0094) = .next
      { at0 0x2A0094 with
        block := { Block.idle with
          word := some 0x2A0094#24
          fields := { Fields.zero with a := 2, b := 10, dst := 1, L := true, J := true }
          addrLoad := true, jump := .uncond (some 0x2A) }
        addr := 1
        listing := [{ label := none, addr := 0, word := 0x2A0094, flagsCol := "  L", jumpCol := "->2a",
                      bodyCol := "address-load, no ALU operation", blankAfter := true }] } := by rfl

/-- The last address ends the run (R41, R243). -/
theorem test_step_last_address_finishes :
    (match step { at0 0 with addr := 255 } with | .next t => (t.phase, t.addr) | _ => (.loading, 7)) = (.done, 0) := by decide

/-! ### The load -/

/-- The worked instance of section 1, E5: source bytes to a word. -/
theorem test_word_assembly : assembleWord [0x0D, 0x0C, 0x02, 0x0A, 0x05, 0x03] = 0x35A2CD := by decide

/-- The worked instance of section 1, E6: codes 3 and 7 on one address. -/
theorem test_dispatch_last_code_wins :
    (buildDispatch [1, 2, 3, 0x40, 5, 6, 8, 0x40]).label 0x40 = some 7 ∧
    (buildDispatch [1, 2, 3, 0x40, 5, 6, 8, 0x40]).label 3 = some 2 ∧
    (buildDispatch [1, 2, 3, 0x40, 5, 6, 8, 0x40]).label 7 = none := by decide

/-- No source placed: the first source taken cannot be opened (R241, D24). -/
theorem test_load_open_failure : stopOf State.reset = some (.sourceOpenFailure (.nibble 0)) := by decide

/-- Source 2 short and source 3 absent: source 2 is reported, for it is read before 3 is opened (R242, D24). -/
theorem test_load_errors_in_order :
    stopOf (beforeLoad { goodSources with n2 := zeros 255, n3 := none }) = some (.sourceReadFailure (.nibble 2)) := by
  decide +kernel

/-- A dispatch source of 31 bytes is short (R242). -/
theorem test_load_short_dispatch :
    stopOf (beforeLoad { goodSources with dispatch := zeros 31 }) = some (.sourceReadFailure .dispatch) := by
  decide +kernel

/-- The loaded dispatch table: code 31 is the last on address 0x40, and the surplus byte labels nothing (R33, D27). -/
theorem test_load_dispatch_table :
    (match step (beforeLoad surplusDispatch) with
      | .next t => (t.dispatch.label 0x40, t.dispatch.label 0x41)
      | _ => (none, some 0)) = (some 31, none) := by
  decide +kernel

/-! ### Witnesses: the hypotheses of each statement can be met -/

/-- The last clause: codes that differ. -/
theorem witness_SelectCodesShareTheirLowBits : (decodeFields 0x358000).sh ≠ (decodeFields 0x358000).sl := by decide

/-- `H` clear, and `H` set. -/
theorem witness_EosAndShowYOfEveryWord : (0x00000C#24).getLsbD 11 = false ∧ (0x000800#24).getLsbD 11 = true := by decide

/-- Select codes that agree, at both ends. -/
theorem witness_FieldsAndWordsAreInBijection : selectsAgree 0 4 = true ∧ selectsAgree 7 3 = true := by decide

/-- A well-formed row of each kind that is checked, and an address-load row at its ends. -/
theorem witness_EveryWellFormedRowIsDecodedFromItsWord : WellFormed (.mw24 { Fields.zero with sh := 7, sl := 3 }) = true ∧
    WellFormed (.mux 7 3 7 15 15 true) = true ∧ WellFormed (.addrload 0xFF true true) = true := by decide

/-- A row of a word. -/
theorem witness_DecodedRowsMatchTheOpcodeTable : (Instr.flagL ∈ decodeRows 0x2A0094#24) ∧ (Instr.aluF2S2 .low 3 5 true ∈ decodeRows 0x35A2CD#24) := by decide

/-- Address-load words at both ends, and words one bit away. -/
theorem witness_AddressLoadWordsAndTheirRows : isAddrLoad 0x000090 = true ∧ isAddrLoad 0xFF00D4 = true ∧ isAddrLoad 0x000091 = false ∧ isAddrLoad 0x000080 = false := by decide

/-- The largest number that is a word. -/
theorem witness_LeadRowActsInItsWord : 2 ^ 24 - 1 < 2 ^ 24 := by decide

/-- The numbers on both sides of the bound. -/
theorem witness_OnlyNumbersOf24BitsAreWords : 2 ^ 24 - 1 < 2 ^ 24 ∧ 2 ^ 24 ≤ 2 ^ 24 := by decide

/-- The last clause: `J` and `H` clear. -/
theorem witness_FlagRowsActOnTheirBits : State.reset.block.fields.J = false ∧ State.reset.block.fields.H = false := by decide

/-- A word that is no address-load word. -/
theorem witness_CarryRowDrivesC : isAddrLoad 0x350001 = false := by decide

/-- A row that answers a next state, and a wire it does not drive. -/
theorem witness_RowsDriveOnlyTheirOwnWires : exec .flagH State.reset = .next (driveH true State.reset) ∧ Wire.main ∉ drives .flagH := ⟨rfl, by decide⟩

/-- A listing phase, and a row that answers a next state. -/
theorem witness_StepRunsTheDecodedRows : (at0 0x35A2CD).phase = .listing ∧ exec .carry State.reset = .next (driveC true State.reset) := ⟨rfl, rfl⟩

/-- A listing phase with a word in the store, as in EosIsPassedOnForEveryWord and LookupsMadeForAWord. -/
theorem witness_StepComputesTheWholeBlockFunction : (at0 0x35A2CD).phase = .listing ∧ (at0 0x35A2CD).store.read (at0 0x35A2CD).addr = 0x35A2CD := by decide

/-- One word at two addresses of two different stores. -/
theorem witness_OutputsDependOnTheWordAlone : (at0 0x35A2CD).phase = .listing ∧
    (({ State.reset with addr := 255 } : State).withFetchWord 24 0x35A2CD).phase = .listing ∧
    (at0 0x35A2CD).store.read 0 = (({ State.reset with addr := 255 } : State).withFetchWord 24 0x35A2CD).store.read 255 := by decide

/-- An order of rows that is not the decoder's. -/
theorem witness_RowOrderIsImmaterial : (decodeRows 0x35A2CD#24).reverse.Perm (decodeRows 0x35A2CD#24) ∧
    (decodeRows 0x35A2CD#24).reverse ≠ decodeRows 0x35A2CD#24 := ⟨List.reverse_perm _, by decide⟩

/-- Sound states in the three phases, each with a next state. -/
theorem witness_EveryStepKeepsTheInvariant_loading :
    Inv (beforeLoad goodSources) ∧ goesOn (beforeLoad goodSources) = true :=
  ⟨⟨⟨by decide, by decide⟩, fun _ h => (Option.some_ne_none _ h.symm).elim, rfl⟩, by decide +kernel⟩

theorem witness_EveryStepKeepsTheInvariant_listing :
    Inv (at0 0x35A2CD) ∧ ∃ t, step (at0 0x35A2CD) = .next t :=
  ⟨⟨⟨by decide, by decide⟩, fun _ h => (Option.some_ne_none _ h.symm).elim, rfl⟩, ⟨_, rfl⟩⟩

theorem witness_EveryStepKeepsTheInvariant_done : Inv finished ∧ ∃ t, step finished = .next t :=
  ⟨⟨⟨by decide, by decide⟩, fun _ h => (Option.some_ne_none _ h.symm).elim, rfl⟩, ⟨_, rfl⟩⟩

/-- A listing phase at its start. -/
theorem witness_WholeRunListsTheWholeStore : (at0 0x35A2CD).phase = .listing ∧ (at0 0x35A2CD).addr = 0 ∧ (at0 0x35A2CD).listing = [] := by decide

/-- A step that stops, and a phase in which none does. -/
theorem witness_OnlyTheLoadCanStop : step State.reset = .fault (.sourceOpenFailure (.nibble 0)) ∧ finished.phase ≠ .loading := ⟨rfl, by decide⟩

/-- A listing phase at an address-load word. -/
theorem witness_AddressLoadLine : (at0 0x2A0094).phase = .listing ∧ isAddrLoad ((at0 0x2A0094).store.read (at0 0x2A0094).addr) = true := by decide

/-- A template without register `a`, and one without register `b`. -/
theorem witness_LookupsUseOnlyTheOperandsTheyName : mentions .ra (rom 0 3).body = false ∧ mentions .rb (rom 0 0).body = false := by decide

/-- The codes on both sides of the bound. -/
theorem witness_SuffixFamilyIsFixedByTheFunctionCode : 3 ≤ (3#3).toNat ∧ (2#3).toNat < 3 := by decide

/-- A failure of the first source, of the last by one byte, and none. -/
theorem witness_SourceErrorsInTheOrderTaken : firstFailure (sourceOrder Sources.absent) = some (.sourceOpenFailure (.nibble 0)) ∧
    firstFailure (sourceOrder { goodSources with dispatch := zeros 31 }) = some (.sourceReadFailure .dispatch) ∧
    firstFailure (sourceOrder goodSources) = none ∧ (beforeLoad goodSources).phase = .loading := by
  decide +kernel

/-- A state before its load whose seven sources hold exactly the expected counts, every nibble byte at the bound 15. -/
theorem witness_LoadAssemblesWordsFromNibbles :
    let b : List Byte := List.replicate 256 15
    let d : List Byte := List.replicate 32 0
    let s : State := beforeLoad ⟨some b, some b, some b, some b, some b, some b, some d⟩
    s.phase = .loading ∧
    s.sources = { n0 := some b, n1 := some b, n2 := some b, n3 := some b, n4 := some b, n5 := some b, dispatch := some d } ∧
    (∀ n ∈ [b, b, b, b, b, b], 256 ≤ n.length ∧ ∀ x ∈ n.take 256, x.toNat < 16) ∧ 32 ≤ d.length := by
  decide +kernel

/-- The same with one surplus byte of 16 or more in source 0. -/
theorem witness_LoadAssemblesWordsFromNibbles_surplus :
    let b : List Byte := List.replicate 256 15
    let b0 : List Byte := b ++ [255]
    let d : List Byte := List.replicate 32 0
    let s : State := beforeLoad ⟨some b0, some b, some b, some b, some b, some b, some d⟩
    s.phase = .loading ∧
    s.sources = { n0 := some b0, n1 := some b, n2 := some b, n3 := some b, n4 := some b, n5 := some b, dispatch := some d } ∧
    (∀ n ∈ [b0, b, b, b, b, b], 256 ≤ n.length ∧ ∀ x ∈ n.take 256, x.toNat < 16) ∧ 32 ≤ d.length := by
  decide +kernel

/-- The load clause: a loading phase, no failing source, a dispatch source with one surplus byte. -/
theorem witness_LastDispatchCodeOfAnAddressWins_load :
    (beforeLoad surplusDispatch).phase = .loading ∧ firstFailure (sourceOrder surplusDispatch) = none ∧
    surplusDispatch.dispatch = some (List.replicate 32 0x40 ++ [0x41]) := by
  decide +kernel

/-- A source of 32 bytes; one code on an address and a later one on the same; an address that no byte names. -/
theorem witness_LastDispatchCodeOfAnAddressWins : (List.replicate 32 (0x40 : Byte)).length = 32 ∧ (List.replicate 32 (0x40 : Byte))[31]? = some 0x40 ∧
    (0x41 : Byte) ∉ List.replicate 32 (0x40 : Byte) := by decide

/-- Stores in canonical form, at the ends of the address space. -/
theorem witness_EqualWordsMeanEqualStores : Memory.wf [] ∧ Memory.wf [(0, 1#24), (255, 0xFFFFFF#24)] := by decide

/-- A finished run. -/
theorem witness_FinishedRunStays : finished.phase = .done := rfl

/-- The largest word, and an address that is not the presented one. -/
theorem witness_PresentedWordIsFetchedAndRun : 2 ^ 24 - 1 < 2 ^ 24 ∧ (255 : Address) ≠ State.reset.addr := by decide

end Sys2Proof.Tests
end

