-- ==== Sys2Proof/Proofs/Scope.lean ====
section
/-! The block of spec/00_scope.md R3 and R4: what it computes is total and a function of the presented word alone.
Both come from one fact about a row, `exec_drivesBlock`: it answers a next state, in which the block is a function of
the block before and nothing else has changed, and it clears no wire of the body. -/

namespace Sys2Proof.Proofs

open Sys2Proof Sys2Proof.Machine Sys2Proof.Laws

/-! ### What a row does to the block -/

/-- Every wire that the body needs (R214, R221) and that is driven in `k` is driven in `k'`, perhaps anew. -/
structure KeepsDriven (k k' : Block) : Prop where
  main : k.main.isSome → k'.main.isSome
  dest : k.dest.isSome → k'.dest.isSome
  addrLoad : k.addrLoad = true → k'.addrLoad = true

theorem KeepsDriven.refl (k : Block) : KeepsDriven k k := ⟨id, id, id⟩

theorem KeepsDriven.trans {k₁ k₂ k₃ : Block} (h : KeepsDriven k₁ k₂) (h' : KeepsDriven k₂ k₃) :
    KeepsDriven k₁ k₃ :=
  ⟨h'.main ∘ h.main, h'.dest ∘ h.dest, h'.addrLoad ∘ h.addrLoad⟩

/-- `m` never stops, acts on the block alone, reads the block alone, and clears no wire of the body. -/
def DrivesBlock (m : State → Result) : Prop :=
  ∃ g : Block → Block, (∀ s, m s = .next { s with block := g s.block }) ∧ ∀ k, KeepsDriven k (g k)

theorem drivesBlock_fields (upd : Fields → Fields) :
    DrivesBlock fun s => .next (driveFields (upd s.block.fields) s) :=
  ⟨fun k => { k with fields := upd k.fields }, fun _ => rfl, fun _ => ⟨id, id, id⟩⟩

theorem drivesBlock_jump (j : JumpForm) (upd : Fields → Fields) :
    DrivesBlock fun s => .next (driveJump j (driveFields (upd s.block.fields) s)) :=
  ⟨fun k => { k with fields := upd k.fields, jump := j }, fun _ => rfl, fun _ => ⟨id, id, id⟩⟩

theorem drivesBlock_mux (m : MuxBranch) : DrivesBlock fun s => .next (driveMux m (driveM true s)) :=
  ⟨fun k => { k with fields := { k.fields with M := true }, mux := some m }, fun _ => rfl, fun _ => ⟨id, id, id⟩⟩

theorem drivesBlock_lookup (path : SelPath) (e : Expr) : DrivesBlock fun s => .next (driveLookup path e s) := by
  cases path with
  | high => exact ⟨fun k => { k with main := some e }, fun _ => rfl, fun _ => ⟨fun _ => rfl, id, id⟩⟩
  | low => exact ⟨fun k => { k with alt := some e }, fun _ => rfl, fun _ => ⟨id, id, id⟩⟩

theorem drivesBlock_dest (d : DestPort) : DrivesBlock fun s => .next (driveDest d s) :=
  ⟨fun k => { k with dest := some d }, fun _ => rfl, fun _ => ⟨id, fun _ => rfl, id⟩⟩

theorem drivesBlock_addrLoad : DrivesBlock fun s => .next (driveAddrLoad s) :=
  ⟨fun k => { k with addrLoad := true }, fun _ => rfl, fun _ => ⟨id, id, fun _ => rfl⟩⟩

/-- Each row's meaning is one of the drives above; the rows not named are the 64 ALU rows. -/
theorem exec_drivesBlock (i : Instr) : DrivesBlock (exec i) := by
  cases i with
  | mw24 x => exact drivesBlock_fields fun _ => x
  | flagH => exact drivesBlock_fields fun x => { x with H := true }
  | flagL => exact drivesBlock_fields fun x => { x with L := true }
  | flagS => exact drivesBlock_fields fun x => { x with S := true }
  | carry => exact drivesBlock_fields fun x => { x with C := true }
  | jmpNone => exact drivesBlock_jump .noJump fun x => { x with J := false }
  | jmpUncond target => exact drivesBlock_jump (.uncond target) fun x => { x with J := true, S := false }
  | jmpCond target => exact drivesBlock_jump (.cond target) fun x => { x with J := true, S := true }
  | mux f sh sl a b c => exact drivesBlock_mux (muxBranch f sh sl a b c)
  | altSelectHigh | altSelectLow => exact drivesBlock_lookup .low _
  | dst0 | dst1 | dst2 | dst3 | dst4 | dst5 | dst6 | dst7 => exact drivesBlock_dest _
  | addrload => exact drivesBlock_addrLoad
  | _ => exact drivesBlock_lookup _ _

/-- Running rows never stops, whatever rows they are. -/
theorem runRows_drivesBlock (rows : List Instr) : DrivesBlock (runRows rows) := by
  induction rows with
  | nil => exact ⟨id, fun _ => rfl, KeepsDriven.refl⟩
  | cons i rest ih =>
    obtain ⟨g, hexec, hkeep⟩ := exec_drivesBlock i
    obtain ⟨g', hrest, hkeep'⟩ := ih
    have hrun (s : State) : runRows (i :: rest) s = .next { s with block := g' (g s.block) } := by
      rw [runRows_cons s i rest _ (hexec s), hrest]
    exact ⟨g' ∘ g, hrun, fun k => (hkeep k).trans (hkeep' (g k))⟩

/-- A word's block is one and the same in every state that the word is presented in (R3), and no word stops (R4). -/
theorem decodeWord_block (w : Word) : ∃ k, ∀ s, decodeWord w s = .next { s with block := k } := by
  obtain ⟨g, hrun, -⟩ := runRows_drivesBlock (decodeRows w)
  exact ⟨g { Block.idle with word := some w }, fun s => hrun (presentWord w s)⟩

/-! ### The rows that drive the body -/

/-- The ALU row of a pair drives the lookup of its path with the ROM's entry of that pair (R110, R111). -/
theorem exec_aluRow (f sel : BitVec 3) (path : SelPath) (a b : BitVec 4) (c : Bool) (s : State) :
    exec (aluRow f sel path a b c) s = .next (driveLookup path (render f sel a b c) s) := by
  have hf : f.toNat < 8 := f.isLt
  have hsel : sel.toNat < 8 := sel.isLt
  unfold aluRow render rom romIndex
  generalize f.toNat = m at *
  generalize sel.toNat = n at *
  interval_cases m <;> interval_cases n <;> rfl

/-- The destination row of a code drives the table's template of that code (R202). -/
theorem exec_dstRow (dst : BitVec 3) (showY : Bool) (b : BitVec 4) (s : State) :
    exec (dstRow dst showY b) s = .next (driveDest ⟨destTable showY dst, b⟩ s) := by
  have hdst : dst.toNat < 8 := dst.isLt
  unfold dstRow destTable
  generalize dst.toNat = n at *
  interval_cases n <;> rfl

/-- What one of the rows drove of the body is driven at the end of the run. -/
theorem runRows_keeps_row {i : Instr} {rows : List Instr} (hi : i ∈ rows) {s t : State}
    (hrun : runRows rows s = .next t) :
    ∃ s₁ t₁, exec i s₁ = .next t₁ ∧ KeepsDriven t₁.block t.block := by
  obtain ⟨before, after, rfl⟩ := List.append_of_mem hi
  obtain ⟨g₁, hbefore, -⟩ := runRows_drivesBlock before
  obtain ⟨g₂, hexec, -⟩ := exec_drivesBlock i
  obtain ⟨g₃, hafter, hkeep⟩ := runRows_drivesBlock after
  rw [runRows_append s before _ _ (hbefore s), runRows_cons _ i after _ (hexec _), hafter] at hrun
  cases hrun
  exact ⟨_, _, hexec _, hkeep _⟩

/-- An output is present as soon as the address-load match is driven, or the main lookup and the destination are. -/
theorem output?_isSome_iff (k : Block) :
    (output? k).isSome ↔ k.addrLoad = true ∨ (k.main.isSome ∧ k.dest.isSome) := by
  unfold output? bodyForm?
  cases k.addrLoad <;> cases k.main <;> cases k.dest <;> simp

/-- Every decoded word has a body: the marker's row drives it in an address-load word, the main ALU row and the
destination row in every other (R58). -/
theorem decodeWord_output_isSome {w : Word} {s t : State} (h : decodeWord w s = .next t) :
    (output? t.block).isSome := by
  rw [output?_isSome_iff]
  let x := decodeFields w
  cases hw : isAddrLoad w with
  | true =>
    have hmem : .addrload x.jaddr (x.dst.getLsbD 2) x.J ∈ decodeRows w := by simp [decodeRows, bodyRows, hw, x]
    obtain ⟨_, _, hexec, hkeep⟩ := runRows_keeps_row hmem h
    cases hexec
    exact .inl (hkeep.addrLoad rfl)
  | false =>
    have hmain : aluRow x.f x.sh .high x.a x.b x.C ∈ decodeRows w := by
      simp [decodeRows, bodyRows, transferRows, hw, x]
    have hdest : dstRow x.dst x.showY x.b ∈ decodeRows w := by
      simp [decodeRows, bodyRows, transferRows, hw, x]
    obtain ⟨_, _, hexec, hkeep⟩ := runRows_keeps_row hmain h
    obtain ⟨_, _, hexec', hkeep'⟩ := runRows_keeps_row hdest h
    rw [exec_aluRow] at hexec
    rw [exec_dstRow] at hexec'
    cases hexec
    cases hexec'
    exact .inr ⟨hkeep.main rfl, hkeep'.dest rfl⟩

/-! ### The statements -/

/-- Settles O33: a row is total by `exec_drivesBlock`, a word by `decodeWord_block`, its output by the rows of its body. -/
theorem everyWordHasAnOutput : Obligations.EveryWordHasAnOutput := by
  refine ⟨fun w s => ?_, fun i s => ?_⟩
  · obtain ⟨k, hdecode⟩ := decodeWord_block w
    obtain ⟨o, ho⟩ := Option.isSome_iff_exists.1 (decodeWord_output_isSome (hdecode s))
    exact ⟨_, o, hdecode s, ho⟩
  · obtain ⟨g, hexec, -⟩ := exec_drivesBlock i
    exact ⟨_, hexec s⟩

/-- A step of the listing presents the word at the state's address and lists what the block makes of it. -/
theorem step_of_listing {s t : State} (hphase : s.phase = .listing) (hdecode : decodeWord (fetchWord s) s = .next t) :
    step s = .next (listWord (fetchWord s) t) := by
  simp only [step, hphase, listNext, hdecode]

/-- Settles O32: the two steps present the same word, and `decodeWord_block` gives that word one block for all states. -/
theorem outputsDependOnTheWordAlone : Obligations.OutputsDependOnTheWordAlone := by
  intro s s' hs hs' hword
  obtain ⟨k, hdecode⟩ := decodeWord_block (fetchWord s)
  have hfetch : fetchWord s = fetchWord s' := hword
  have hdecode' : decodeWord (fetchWord s') s' = .next { s' with block := k } := hfetch ▸ hdecode s'
  exact ⟨_, _, step_of_listing hs (hdecode s), step_of_listing hs' hdecode', rfl⟩

end Sys2Proof.Proofs
end

