-- ==== Sys2Proof/Proofs/FieldDecoder.lean ====
section
/-! The Field Decoder of spec/40_field_decoder.md as arithmetic on the word's number (R98), and its jump address (R93).
A slice of the word is a shift and a mask (`toNat_extractLsb'_eq_mask`), a bit of it a shift and a test
(`shiftBit_toNat`); only the high-select code, which folds what it masks (R84), needs an argument of its own. -/

namespace Sys2Proof.Proofs

open Sys2Proof Sys2Proof.Machine

/-! ### Slices and bits as shifts and masks -/

theorem toNat_extractLsb'_eq_mask (w : Word) (start len : Nat) :
    (w.extractLsb' start len).toNat = (w.toNat >>> start) &&& (2 ^ len - 1) := by
  rw [BitVec.extractLsb'_toNat, Nat.and_two_pow_sub_one_eq_mod]

theorem shiftBit_toNat (w : Word) (i : Nat) : shiftBit w.toNat i = bitAt w i := by
  rw [bitAt, ← BitVec.testBit_toNat, Nat.testBit_eq_decide_div_mod_eq, shiftBit, Nat.and_one_is_mod,
    Nat.shiftRight_eq_div_pow]
  rfl

/-- The mask of R84 lies inside the slice `word[15:12]`, so masking the shifted word needs no slice. -/
theorem toNat_maskedSelect (w : Word) :
    (w.extractLsb' 12 4 &&& 0b1011#4).toNat = (w.toNat >>> 12) &&& 0xB := by
  rw [BitVec.toNat_and, toNat_extractLsb'_eq_mask, Nat.and_assoc]
  rfl

/-- The fold of R84. A masked value is at most 11, so that 4 less of one above 7 fits the code's three bits. -/
theorem selectHigh_toNat (w : Word) :
    (selectHigh w).toNat =
      if (w.toNat >>> 12) &&& 0xB > 7 then ((w.toNat >>> 12) &&& 0xB) - 4 else (w.toNat >>> 12) &&& 0xB := by
  have hbound : (w.toNat >>> 12) &&& 0xB ≤ 11 := Nat.and_le_right
  rw [← toNat_maskedSelect] at hbound ⊢
  unfold selectHigh
  generalize w.extractLsb' 12 4 &&& 0b1011#4 = r at *
  by_cases hfold : r > 7#4
  · have hgt : r.toNat > 7 := hfold
    simp only [if_pos hfold, if_pos hgt]
    bv_omega
  · have hle : ¬ r.toNat > 7 := hfold
    simp only [if_neg hfold, if_neg hle]
    bv_omega

/-! ### The jump address -/

/-- `jaddr` is the two register indices read as one number, whatever record they stand in (R93). -/
theorem jaddr_toNat (x : Fields) : x.jaddr.toNat = 16 * x.a.toNat + x.b.toNat := by
  rw [Fields.jaddr, BitVec.toNat_append, ← Nat.shiftLeft_add_eq_or_of_lt x.b.isLt, Nat.shiftLeft_eq, Nat.mul_comm]

/-- The indices `a` and `b` are neighbouring slices, so that `jaddr` is one slice of the word (R93). -/
theorem decodeFields_jaddr (w : Word) : (decodeFields w).jaddr = w.extractLsb' 16 8 :=
  BitVec.extractLsb'_append_extractLsb'_eq_extractLsb' rfl

/-! ### The statements -/

/-- The sixteen outputs, each by its slice or its bit (R98). -/
theorem decodedOf_decodeFields (w : Word) : decodedOf (decodeFields w) = decodeByShifts w.toNat := by
  have hjaddr : (decodeFields w).jaddr.toNat = (w.toNat >>> 16) &&& 0xFF := by
    rw [decodeFields_jaddr]
    exact toNat_extractLsb'_eq_mask w 16 8
  simp only [decodedOf, hjaddr, decodeByShifts, shiftBit_toNat]
  simp only [decodeFields, Fields.jvalid, Fields.eos, Fields.showY, eosOf, showYOf, selectLow, selectHigh_toNat,
    toNat_extractLsb'_eq_mask, Nat.reducePow, Nat.reduceSub]

/-- Settles O1: MW24's arm is `driveFields`, every word is by `decodedOf_decodeFields`, the example is evaluated. -/
theorem fieldDecoderIsShiftsAndMasks : Obligations.FieldDecoderIsShiftsAndMasks :=
  ⟨fun _ _ => rfl, decodedOf_decodeFields, by decide⟩

/-- Settles O5: the address is one slice and its number the two indices'; its presence is the bit that `L` is cut from. -/
theorem jumpAddressIsPresentExactlyWhenLIsSet : Obligations.JumpAddressIsPresentExactlyWhenLIsSet := by
  intro w
  have hpresent : (decodeFields w).jumpAddress = if w.getLsbD 7 then some (w.extractLsb' 16 8) else none := by
    rw [Fields.jumpAddress, jumpTarget, decodeFields_jaddr]
    rfl
  exact ⟨decodeFields_jaddr w, jaddr_toNat _, rfl, hpresent⟩

end Sys2Proof.Proofs
end

