-- ==== Sys2Proof/Proofs/AluRom.lean ====
section
/-! The ALU ROM's lookup (spec/41_alu_rom_arith.md). A row's statement `aluResult` follows from its pair `(f, s)`:
`aluResult_of_aluRow` answers for the ROM's index and for the meaning of all 64 rows at once, so that a row owes only
its text. A lookup is a function of the symbols its template names (R115): `instantiateBody_congr`. -/

namespace Sys2Proof.Proofs

open Sys2Proof Sys2Proof.Machine

/-! ### The row of a pair -/

/-- Every index `{f, s}` lies in the table, so that `rom` never answers its default (R11, R60). -/
theorem romTable_romIndex (f sel : BitVec 3) : romTable[romIndex f sel]? = some (rom f sel) := by
  have hbound : romIndex f sel < romTable.length := by
    have hlength : romTable.length = 64 := rfl
    rw [hlength, romIndex]
    omega
  rw [rom, List.getD_eq_getElem?_getD, List.getElem?_eq_getElem hbound, Option.getD_some]

theorem exprText_render (f sel : BitVec 3) (a b : BitVec 4) (c : Bool) :
    exprText (render f sel a b c) =
      bodyText (instantiateBody a b (rom f sel).body) ++ adjustText (resolveSuffix (rom f sel).suffix c) := rfl

/-- What the row of a pair does (R111, R115), given the two parts of the text it prints (R116). -/
theorem aluResult_of_aluRow (f sel : BitVec 3) {path : SelPath} {a b : BitVec 4} {c : Bool} {s : State}
    {text suffix : String} (htext : bodyText (instantiateBody a b (rom f sel).body) = text)
    (hsuffix : adjustText (resolveSuffix (rom f sel).suffix c) = suffix) :
    aluResult (aluRow f sel path a b c) (romIndex f sel) (rom f sel) path (render f sel a b c) (text ++ suffix) s :=
  ⟨romTable_romIndex f sel, exec_aluRow f sel path a b c s, by rw [exprText_render, htext, hsuffix]⟩

/-! ### The text of a suffix and of two terms -/

theorem adjustText_sfxPc (c : Bool) : adjustText (resolveSuffix .sfxPc c) = if c then " + 1" else "" := by
  cases c <;> rfl

theorem adjustText_sfxMc (c : Bool) : adjustText (resolveSuffix .sfxMc c) = if c then "" else " - 1" := by
  cases c <;> rfl

/-- A term with no mark is spelt as its operand (R116). -/
theorem termText_plain (x : Symbol) : termText ⟨.plain, x⟩ = symbolText x := by
  simp [termText, unaryText]

/-- Two terms with no mark, the operator between single spaces (R116). -/
theorem bodyText_plain_plain (x : Symbol) (op : BinOp) (y : Symbol) :
    bodyText (.two ⟨.plain, x⟩ op ⟨.plain, y⟩) = symbolText x ++ (" " ++ opText op ++ " ") ++ symbolText y := by
  simp only [bodyText, termText_plain, String.append_assoc]

theorem bodyText_reg_symbol (a : BitVec 4) (op : BinOp) (y : Symbol) :
    bodyText (.two ⟨.plain, .reg a⟩ op ⟨.plain, y⟩) = "R" ++ dec a ++ (" " ++ opText op ++ " " ++ symbolText y) := by
  simp only [bodyText_plain_plain, symbolText, String.append_assoc]

/-- The right register's letter joined to the text before it, as the entry rules write the text. -/
theorem bodyText_symbol_reg (x : Symbol) (op : BinOp) (b : BitVec 4) :
    bodyText (.two ⟨.plain, x⟩ op ⟨.plain, .reg b⟩) = symbolText x ++ (" " ++ opText op ++ " " ++ "R") ++ dec b := by
  simp only [bodyText_plain_plain, symbolText, String.append_assoc]

/-! ### The two-operand rows -/

/-- Settles O13: each row by its pair, with the text of its two terms. -/
theorem aluAddTwoOperandRows : Obligations.AluAddTwoOperandRows := fun _ a b c _ =>
  ⟨aluResult_of_aluRow 0 0 (bodyText_reg_symbol a .add .q) (adjustText_sfxPc c),
   aluResult_of_aluRow 0 1 (bodyText_symbol_reg (.reg a) .add b) (adjustText_sfxPc c),
   aluResult_of_aluRow 0 5 (bodyText_symbol_reg .d .add a) (adjustText_sfxPc c),
   aluResult_of_aluRow 0 6 (bodyText_plain_plain .d .add .q) (adjustText_sfxPc c)⟩

/-- Settles O14: as O13, with the suffix of the post-decrement family (R114). -/
theorem aluSubVar1TwoOperandRows : Obligations.AluSubVar1TwoOperandRows := fun _ a b c _ =>
  ⟨aluResult_of_aluRow 1 0 (bodyText_symbol_reg .q .sub a) (adjustText_sfxMc c),
   aluResult_of_aluRow 1 1 (bodyText_symbol_reg (.reg b) .sub a) (adjustText_sfxMc c),
   aluResult_of_aluRow 1 5 (bodyText_reg_symbol a .sub .d) (adjustText_sfxMc c),
   aluResult_of_aluRow 1 6 (bodyText_plain_plain .q .sub .d) (adjustText_sfxMc c)⟩

/-- Settles O15: as O14, with the operands of each pair exchanged. -/
theorem aluSubVar2TwoOperandRows : Obligations.AluSubVar2TwoOperandRows := fun _ a b c _ =>
  ⟨aluResult_of_aluRow 2 0 (bodyText_reg_symbol a .sub .q) (adjustText_sfxMc c),
   aluResult_of_aluRow 2 1 (bodyText_symbol_reg (.reg a) .sub b) (adjustText_sfxMc c),
   aluResult_of_aluRow 2 5 (bodyText_symbol_reg .d .sub a) (adjustText_sfxMc c),
   aluResult_of_aluRow 2 6 (bodyText_plain_plain .d .sub .q) (adjustText_sfxMc c)⟩

/-! ### The operands of a lookup -/

/-- Two choices of register indices that agree on every operand a body names give the same body (R115). -/
theorem instantiateBody_congr {a a' b b' : BitVec 4} {body : Body Opnd}
    (h : ∀ o, mentions o body = true → operandSymbol a b o = operandSymbol a' b' o) :
    instantiateBody a b body = instantiateBody a' b' body := by
  cases body with
  | one t =>
    have ht := h t.operand (by simp [mentions])
    simp only [instantiateBody, instantiateTerm, ht]
  | two l op r =>
    have hl := h l.operand (by simp [mentions])
    have hr := h r.operand (by simp [mentions])
    simp only [instantiateBody, instantiateTerm, hl, hr]

theorem operandSymbol_eq_of_ne_ra (a a' b : BitVec 4) {o : Opnd} (h : o ≠ .ra) :
    operandSymbol a b o = operandSymbol a' b o := by
  cases o with
  | ra => exact absurd rfl h
  | rb | q | d | zero => rfl

theorem operandSymbol_eq_of_ne_rb (a b b' : BitVec 4) {o : Opnd} (h : o ≠ .rb) :
    operandSymbol a b o = operandSymbol a b' o := by
  cases o with
  | rb => exact absurd rfl h
  | ra | q | d | zero => rfl

/-- An index that the template does not mention has no effect (R115): the two lookups put the same symbols in. -/
theorem render_congr {f sel : BitVec 3} {a a' b b' : BitVec 4} (c : Bool)
    (h : ∀ o, mentions o (rom f sel).body = true → operandSymbol a b o = operandSymbol a' b' o) :
    render f sel a b c = render f sel a' b' c := by
  rw [render, render, instantiate, instantiate, instantiateBody_congr h]

theorem ne_of_mentions {o o' : Opnd} {body : Body Opnd} (ho' : mentions o' body = false)
    (ho : mentions o body = true) : o ≠ o' := by
  rintro rfl
  exact Bool.noConfusion (ho'.symm.trans ho)

/-- Settles O44: the result by the cases of the template, the two independence clauses by `render_congr`. -/
theorem lookupsUseOnlyTheOperandsTheyName : Obligations.LookupsUseOnlyTheOperandsTheyName := by
  refine ⟨fun f s a b c => ⟨?adjust, ?body⟩, fun _ _ => ⟨rfl, rfl, rfl, rfl, rfl⟩,
    fun _ _ a a' b c hra => render_congr c fun _ ho => operandSymbol_eq_of_ne_ra a a' b (ne_of_mentions hra ho),
    fun _ _ a b b' c hrb => render_congr c fun _ ho => operandSymbol_eq_of_ne_rb a b b' (ne_of_mentions hrb ho)⟩
  case adjust =>
    simp only [render, instantiate]
    cases (rom f s).suffix with
    | sfxPc | sfxNone => rfl
    | sfxMc => cases c <;> rfl
  case body =>
    simp only [render, instantiate]
    cases (rom f s).body with
    | one | two => rfl

end Sys2Proof.Proofs
end

