-- ==== Sys2Proof/Proofs/AluRomLogic.lean ====
section
/-! The ALU ROM's logic rows (spec/42_alu_rom_logic.md): `f = 3` to `7`, none with a suffix. A row prints its body
alone, whatever the carry (`aluResult_of_logicRow`), so that it owes only the text of its terms. The texts are stated
for any mark and operator, so that the complement rows use those of the plain rows. -/

namespace Sys2Proof.Proofs

open Sys2Proof Sys2Proof.Machine

/-! ### No suffix -/

/-- The suffix of an entry is that of its function code (R114). -/
theorem rom_suffix (f sel : BitVec 3) : (rom f sel).suffix = suffixFamily f := by
  revert f sel
  decide

theorem suffixFamily_logic {f : BitVec 3} (hf : 3 ≤ f.toNat) : suffixFamily f = .sfxNone := by
  have hne (k : BitVec 3) (hk : k.toNat < 3) : f ≠ k := by
    rintro rfl
    omega
  rw [suffixFamily, if_neg (hne 0 (by decide)),
    if_neg (not_or.mpr ⟨hne 1 (by decide), hne 2 (by decide)⟩)]

/-- What the row of a pair with `f = 3` to `7` does, given the text of its body: the carry adds nothing to it. -/
theorem aluResult_of_logicRow {f : BitVec 3} (hf : 3 ≤ f.toNat) (sel : BitVec 3) {path : SelPath} {a b : BitVec 4}
    {c : Bool} {s : State} {text : String} (htext : bodyText (instantiateBody a b (rom f sel).body) = text) :
    aluResult (aluRow f sel path a b c) (romIndex f sel) (rom f sel) path (render f sel a b c) text s := by
  have hsuffix : adjustText (resolveSuffix (rom f sel).suffix c) = "" := by
    rw [rom_suffix, suffixFamily_logic hf]
    rfl
  rw [← String.append_empty (s := text)]
  exact aluResult_of_aluRow f sel htext hsuffix

/-! ### The text of a marked register -/

/-- The register's letter joined to its mark, as the entry rules write the text. -/
theorem termText_reg (m : Unary) (a : BitVec 4) : termText ⟨m, .reg a⟩ = unaryText m ++ "R" ++ dec a := by
  simp only [termText, symbolText, String.append_assoc]

theorem bodyText_marked_reg_symbol (m : Unary) (a : BitVec 4) (op : BinOp) (y : Symbol) :
    bodyText (.two ⟨m, .reg a⟩ op ⟨.plain, y⟩) =
      unaryText m ++ "R" ++ dec a ++ (" " ++ opText op ++ " " ++ symbolText y) := by
  simp only [bodyText, termText_reg, termText_plain, String.append_assoc]

theorem bodyText_marked_symbol_reg (m : Unary) (x : Symbol) (op : BinOp) (b : BitVec 4) :
    bodyText (.two ⟨m, x⟩ op ⟨.plain, .reg b⟩) = termText ⟨m, x⟩ ++ (" " ++ opText op ++ " " ++ "R") ++ dec b := by
  simp only [bodyText, termText_plain, symbolText, String.append_assoc]

theorem bodyText_marked_reg_reg (m : Unary) (a : BitVec 4) (op : BinOp) (b : BitVec 4) :
    bodyText (.two ⟨m, .reg a⟩ op ⟨.plain, .reg b⟩) =
      unaryText m ++ "R" ++ dec a ++ (" " ++ opText op ++ " " ++ "R") ++ dec b := by
  rw [bodyText_marked_symbol_reg, termText_reg]

/-! ### The forty rows -/

/-- Settles O17: each row by its pair, with the text of its body. -/
theorem aluOrRows : Obligations.AluOrRows := fun _ a b _ _ =>
  have hf : 3 ≤ (3#3).toNat := by decide
  ⟨aluResult_of_logicRow hf 0 (bodyText_marked_reg_symbol .plain a .or .q),
   aluResult_of_logicRow hf 1 (bodyText_marked_reg_reg .plain a .or b),
   aluResult_of_logicRow hf 2 rfl,
   aluResult_of_logicRow hf 3 (termText_reg .plain b),
   aluResult_of_logicRow hf 4 (termText_reg .plain a),
   aluResult_of_logicRow hf 5 (bodyText_marked_symbol_reg .plain .d .or a),
   aluResult_of_logicRow hf 6 rfl,
   aluResult_of_logicRow hf 7 rfl⟩

/-- Settles O18: as O17; the four literal columns print no register. -/
theorem aluAndRows : Obligations.AluAndRows := fun _ a b _ _ =>
  have hf : 3 ≤ (4#3).toNat := by decide
  ⟨aluResult_of_logicRow hf 0 (bodyText_marked_reg_symbol .plain a .and .q),
   aluResult_of_logicRow hf 1 (bodyText_marked_reg_reg .plain a .and b),
   aluResult_of_logicRow hf 2 rfl,
   aluResult_of_logicRow hf 3 rfl,
   aluResult_of_logicRow hf 4 rfl,
   aluResult_of_logicRow hf 5 (bodyText_marked_symbol_reg .plain .d .and a),
   aluResult_of_logicRow hf 6 rfl,
   aluResult_of_logicRow hf 7 rfl⟩

/-- Settles O19: as O18, the first operand of a pair marked as complemented; columns 2 to 4 print it plain. -/
theorem aluAndComplementRows : Obligations.AluAndComplementRows := fun _ a b _ _ =>
  have hf : 3 ≤ (5#3).toNat := by decide
  ⟨aluResult_of_logicRow hf 0 (bodyText_marked_reg_symbol .inv a .and .q),
   aluResult_of_logicRow hf 1 (bodyText_marked_reg_reg .inv a .and b),
   aluResult_of_logicRow hf 2 rfl,
   aluResult_of_logicRow hf 3 (termText_reg .plain b),
   aluResult_of_logicRow hf 4 (termText_reg .plain a),
   aluResult_of_logicRow hf 5 (bodyText_marked_symbol_reg .inv .d .and a),
   aluResult_of_logicRow hf 6 rfl,
   aluResult_of_logicRow hf 7 rfl⟩

/-- Settles O20: as O17, with the other operator. -/
theorem aluXorRows : Obligations.AluXorRows := fun _ a b _ _ =>
  have hf : 3 ≤ (6#3).toNat := by decide
  ⟨aluResult_of_logicRow hf 0 (bodyText_marked_reg_symbol .plain a .xor .q),
   aluResult_of_logicRow hf 1 (bodyText_marked_reg_reg .plain a .xor b),
   aluResult_of_logicRow hf 2 rfl,
   aluResult_of_logicRow hf 3 (termText_reg .plain b),
   aluResult_of_logicRow hf 4 (termText_reg .plain a),
   aluResult_of_logicRow hf 5 (bodyText_marked_symbol_reg .plain .d .xor a),
   aluResult_of_logicRow hf 6 rfl,
   aluResult_of_logicRow hf 7 rfl⟩

/-- Settles O21: as O20 with the complement's mark; columns 5 and 6 keep the table's `&` (R187, R188). -/
theorem aluXorComplementRows : Obligations.AluXorComplementRows := fun _ a b _ _ =>
  have hf : 3 ≤ (7#3).toNat := by decide
  ⟨aluResult_of_logicRow hf 0 (bodyText_marked_reg_symbol .inv a .xor .q),
   aluResult_of_logicRow hf 1 (bodyText_marked_reg_reg .inv a .xor b),
   aluResult_of_logicRow hf 2 rfl,
   aluResult_of_logicRow hf 3 (termText_reg .inv b),
   aluResult_of_logicRow hf 4 (termText_reg .inv a),
   aluResult_of_logicRow hf 5 (bodyText_marked_symbol_reg .inv .d .and a),
   aluResult_of_logicRow hf 6 rfl,
   aluResult_of_logicRow hf 7 rfl⟩

end Sys2Proof.Proofs
end

