-- ==== Sys2Proof/Proofs/Assembler.lean ====
section
/-! The Assembler's `eos` (spec/43_assembler.md R219). It is a function of the Field Decoder's outputs, so that it owes
only that these are still the word's own once all rows have run: the format row drives them first, and every later row
of the word drives a bit to the value that it has in the word, or none (`keepsFields_of_mem`). -/

namespace Sys2Proof.Proofs

open Sys2Proof Sys2Proof.Machine Sys2Proof.Laws

/-! ### Rows that leave the Field Decoder's outputs as they are -/

/-- Where the Field Decoder's outputs are `x`, `m` answers a next state in which they are `x` again. -/
def KeepsFields (x : Fields) (m : State → Result) : Prop :=
  ∀ s, s.block.fields = x → ∃ t, m s = .next t ∧ t.block.fields = x

theorem keepsFields_next {x : Fields} {g : State → State}
    (h : ∀ s, s.block.fields = x → (g s).block.fields = x) : KeepsFields x fun s => .next (g s) :=
  fun s hs => ⟨g s, rfl, h s hs⟩

/-- Single outputs driven to what they are in `x`. -/
theorem keepsFields_driveFields {x : Fields} {upd : Fields → Fields} (h : upd x = x) :
    KeepsFields x fun s => .next (driveFields (upd s.block.fields) s) :=
  keepsFields_next fun _ hs => (congrArg upd hs).trans h

theorem keepsFields_driveJump {x : Fields} (j : JumpForm) {upd : Fields → Fields} (h : upd x = x) :
    KeepsFields x fun s => .next (driveJump j (driveFields (upd s.block.fields) s)) :=
  keepsFields_next fun _ hs => (congrArg upd hs).trans h

theorem keepsFields_driveLookup (x : Fields) (path : SelPath) (e : Expr) :
    KeepsFields x fun s => .next (driveLookup path e s) := by
  cases path with
  | high | low => exact keepsFields_next fun _ hs => hs

theorem runRows_keepsFields {x : Fields} {rows : List Instr} (h : ∀ i ∈ rows, KeepsFields x (exec i)) :
    KeepsFields x (runRows rows) := by
  induction rows with
  | nil => exact keepsFields_next fun _ hs => hs
  | cons i rest ih =>
    intro s hs
    obtain ⟨t, hexec, ht⟩ := h i List.mem_cons_self s hs
    obtain ⟨u, hrest, hu⟩ := ih (fun j hj => h j (List.mem_cons_of_mem i hj)) t ht
    exact ⟨u, by rw [runRows_cons s i rest t hexec, hrest], hu⟩

/-! ### The rows of a word, group by group -/

/-- A flag row acts in a word only where its bit is set already (R87 to R89, R92). -/
theorem keepsFields_of_mem_flagRows {x : Fields} {i : Instr} (hi : i ∈ flagRows x) : KeepsFields x (exec i) := by
  simp only [flagRows, List.mem_append, List.mem_ite_nil_right, List.mem_singleton] at hi
  obtain ((⟨hC, rfl⟩ | ⟨hH, rfl⟩) | ⟨hL, rfl⟩) | ⟨hS, rfl⟩ := hi
  · exact keepsFields_driveFields (upd := fun x => { x with C := true }) (by rw [← hC])
  · exact keepsFields_driveFields (upd := fun x => { x with H := true }) (by rw [← hH])
  · exact keepsFields_driveFields (upd := fun x => { x with L := true }) (by rw [← hL])
  · exact keepsFields_driveFields (upd := fun x => { x with S := true }) (by rw [← hS])

theorem keepsFields_aluRow (x : Fields) (f sel : BitVec 3) (path : SelPath) (a b : BitVec 4) (c : Bool) :
    KeepsFields x (exec (aluRow f sel path a b c)) := by
  rw [funext (exec_aluRow f sel path a b c)]
  exact keepsFields_driveLookup x path _

theorem keepsFields_altRow (x y : Fields) : KeepsFields x (exec (altRow y)) := by
  unfold altRow
  split <;> exact keepsFields_driveLookup x .low _

theorem keepsFields_dstRow (x : Fields) (dst : BitVec 3) (showY : Bool) (b : BitVec 4) :
    KeepsFields x (exec (dstRow dst showY b)) := by
  rw [funext (exec_dstRow dst showY b)]
  exact keepsFields_next fun _ hs => hs

/-- Of the body's rows only MUX drives an output of the Field Decoder, `M`, and it acts only where `M` is set (R213). -/
theorem keepsFields_of_mem_transferRows {x : Fields} {i : Instr} (hi : i ∈ transferRows x) :
    KeepsFields x (exec i) := by
  simp only [transferRows, List.mem_append, List.mem_ite_nil_right, List.mem_cons, List.not_mem_nil, or_false] at hi
  obtain ((rfl | ⟨-, rfl | rfl⟩) | ⟨hM, rfl⟩) | rfl := hi
  · exact keepsFields_aluRow x _ _ _ _ _ _
  · exact keepsFields_altRow x x
  · exact keepsFields_aluRow x _ _ _ _ _ _
  · exact keepsFields_next (g := fun s => driveMux (muxBranch x.f x.sh x.sl x.a x.b x.C) (driveM true s))
      fun s hs => by simp only [driveMux_fields, driveM_eq, driveFields_fields, hs, ← hM]
  · exact keepsFields_dstRow x _ _ _

/-- The marker's row drives no output of the Field Decoder, so that an address-load word is no exception (R219). -/
theorem keepsFields_of_mem_bodyRows {w : Word} {x : Fields} {i : Instr} (hi : i ∈ bodyRows w x) :
    KeepsFields x (exec i) := by
  unfold bodyRows at hi
  split at hi
  · obtain rfl := List.mem_singleton.1 hi
    exact keepsFields_next fun _ hs => hs
  · exact keepsFields_of_mem_transferRows hi

/-- The jump row drives `J` and `S` to the bits it was chosen by (R224 to R226). -/
theorem keepsFields_jumpRow (x : Fields) : KeepsFields x (exec (jumpRow x)) := by
  unfold jumpRow
  split_ifs with hJ hS
  · exact keepsFields_driveJump (.cond x.jumpAddress) (upd := fun y => { y with J := true, S := true })
      (congrArg₂ (fun j v => { x with J := j, S := v }) hJ.symm hS.symm)
  · exact keepsFields_driveJump (.uncond x.jumpAddress) (upd := fun y => { y with J := true, S := false })
      (congrArg₂ (fun j v => { x with J := j, S := v }) hJ.symm (Bool.eq_false_of_not_eq_true hS).symm)
  · exact keepsFields_driveJump .noJump (upd := fun y => { y with J := false })
      (by rw [← Bool.eq_false_of_not_eq_true hJ])

/-! ### The outputs of a presented word -/

/-- All rows of a word but the format row leave the fields that the format row has driven. -/
theorem keepsFields_of_mem {w : Word} {x : Fields} {i : Instr}
    (hi : i ∈ flagRows x ++ bodyRows w x ++ [jumpRow x]) : KeepsFields x (exec i) := by
  rw [List.mem_append, List.mem_append, List.mem_singleton] at hi
  obtain (hflag | hbody) | rfl := hi
  · exact keepsFields_of_mem_flagRows hflag
  · exact keepsFields_of_mem_bodyRows hbody
  · exact keepsFields_jumpRow x

/-- Once a word's rows have run, the Field Decoder's outputs are the word's fields (R98), address-load or not. -/
theorem decodeWord_fields {w : Word} {s t : State} (h : decodeWord w s = .next t) :
    t.block.fields = decodeFields w := by
  have hformat : exec (.mw24 (decodeFields w)) (presentWord w s) =
      .next (driveFields (decodeFields w) (presentWord w s)) := rfl
  obtain ⟨u, hrest, hu⟩ := runRows_keepsFields (fun _ => keepsFields_of_mem (w := w) (x := decodeFields w)) _
    (driveFields_fields (presentWord w s) (decodeFields w))
  have hrun : decodeWord w s = .next u := (runRows_cons _ _ _ _ hformat).trans hrest
  cases h.symm.trans hrun
  exact hu

/-! ### The statement -/

/-- Settles O39: the block's fields are the word's by `decodeWord_fields`, and the row is made of that block. -/
theorem eosIsPassedOnForEveryWord : Obligations.EosIsPassedOnForEveryWord := by
  intro s hs
  obtain ⟨k, hdecode⟩ := decodeWord_block (fetchWord s)
  have hfields : k.fields = decodeFields (s.store.read s.addr) := decodeWord_fields (hdecode s)
  have heos : eos k = (decodeFields (s.store.read s.addr)).eos := congrArg Fields.eos hfields
  exact ⟨_, rowOf s.dispatch s.addr (fetchWord s) k, step_of_listing hs (hdecode s), heos, heos, rfl, rfl⟩

end Sys2Proof.Proofs
end

