-- ==== Sys2Proof/Proofs/WordLayout.lean ====
section
/-! The layout of the word (spec/30_encoding.md sections 1 and 2): each field is a slice of an encoded word
(`encodeFields_slice`), and each bit of a word is a bit of its fields, so that words and field records with agreeing
select codes are the same thing (R51, R96). The two select codes are one bit each on top of `word[13:12]`
(`selectHigh_eq`, `selectLow_eq`). -/

namespace Sys2Proof.Proofs

open Sys2Proof Sys2Proof.Machine Sys2Proof.Laws

/-! ### The two select codes -/

/-- The mask and fold of R84 leave bits 15, 13 and 12: four bits, checked for each of their sixteen values. -/
theorem selectHigh_eq (w : Word) : selectHigh w = BitVec.ofBool (w.getLsbD 15) ++ w.extractLsb' 12 2 := by
  have hfold : ∀ r : BitVec 4, (if r &&& 0b1011#4 > 7#4 then ((r &&& 0b1011#4) - 4#4).setWidth 3
      else (r &&& 0b1011#4).setWidth 3) = BitVec.ofBool (r.getLsbD 3) ++ r.extractLsb' 0 2 := by decide
  have htop : (w.extractLsb' 12 4).getLsbD 3 = w.getLsbD 15 := by simp
  have hlow : (w.extractLsb' 12 4).extractLsb' 0 2 = w.extractLsb' 12 2 := by
    apply BitVec.eq_of_getLsbD_eq
    intro k hk
    interval_cases k <;> simp
  rw [← htop, ← hlow]
  exact hfold _

theorem selectLow_eq (w : Word) : selectLow w = BitVec.ofBool (w.getLsbD 14) ++ w.extractLsb' 12 2 := by
  apply BitVec.eq_of_getLsbD_eq
  intro k hk
  rw [BitVec.getLsbD_append]
  interval_cases k <;> simp [selectLow]

/-- Two codes that are one bit each on top of the same two bits: they differ exactly where the top bits do, by 4. -/
theorem selectCodes_relation : ∀ (h l : Bool) (ss : BitVec 2),
    (BitVec.ofBool h ++ ss).setWidth 2 = ss ∧
    (BitVec.ofBool h ++ ss ≠ BitVec.ofBool l ++ ss ↔ h ≠ l) ∧
    (BitVec.ofBool h ++ ss ≠ BitVec.ofBool l ++ ss → BitVec.ofBool l ++ ss = (BitVec.ofBool h ++ ss) ^^^ 4#3) := by
  decide

/-- Settles O3: both codes are a bit on top of `word[13:12]`. -/
theorem selectCodesShareTheirLowBits : Obligations.SelectCodesShareTheirLowBits := by
  intro w
  simp only [decodeFields, selectHigh_eq, selectLow_eq]
  obtain ⟨hhigh, hdiffer, hfour⟩ := selectCodes_relation (w.getLsbD 15) (w.getLsbD 14) (w.extractLsb' 12 2)
  obtain ⟨hlow, -, -⟩ := selectCodes_relation (w.getLsbD 14) (w.getLsbD 14) (w.extractLsb' 12 2)
  exact ⟨hhigh, hlow, hdiffer, hfour⟩

/-- The select codes that are cut from a word agree (R96). -/
theorem selectsAgree_decodeFields (w : Word) : selectsAgree (decodeFields w).sh (decodeFields w).sl = true := by
  obtain ⟨hhigh, hlow, -, -⟩ := selectCodesShareTheirLowBits w
  rw [selectsAgree, hhigh, hlow, beq_self_eq_true]

/-! ### Words and field records -/

/-- A slice of an encoded word, given the bits of the record that stand there. -/
theorem encodeFields_slice {x : Fields} {start len : Nat} {v : BitVec len}
    (h : ∀ k < len, (fieldBits x).getD (start + k) false = v.getLsbD k) :
    (encodeFields x).extractLsb' start len = v := by
  apply BitVec.eq_of_getLsbD_eq
  intro k hk
  rw [BitVec.getLsbD_extractLsb', encodeFields_bit, h k hk]
  simp [hk]

theorem selectLow_encodeFields (x : Fields) : selectLow (encodeFields x) = x.sl :=
  encodeFields_slice fun k hk => by interval_cases k <;> rfl

/-- The high code's own bit is written from it, its low two bits are the shared ones (R96). -/
theorem selectHigh_encodeFields {x : Fields} (h : selectsAgree x.sh x.sl = true) :
    selectHigh (encodeFields x) = x.sh := by
  have hshared : (encodeFields x).extractLsb' 12 2 = x.sl.setWidth 2 :=
    encodeFields_slice fun k hk => by interval_cases k <;> simp [fieldBits]
  have hagree : x.sh.setWidth 2 = x.sl.setWidth 2 := by simpa [selectsAgree] using h
  have hcode : ∀ v : BitVec 3, BitVec.ofBool (v.getLsbD 2) ++ v.setWidth 2 = v := by decide
  rw [selectHigh_eq, encodeFields_bit, hshared, ← hagree]
  exact hcode x.sh

/-- Cutting an encoded word gives back the record, field by field. -/
theorem decodeFields_encodeFields {x : Fields} (h : selectsAgree x.sh x.sl = true) :
    decodeFields (encodeFields x) = x := by
  have ha : (encodeFields x).extractLsb' 20 4 = x.a := encodeFields_slice fun k hk => by interval_cases k <;> rfl
  have hb : (encodeFields x).extractLsb' 16 4 = x.b := encodeFields_slice fun k hk => by interval_cases k <;> rfl
  have hf : (encodeFields x).extractLsb' 8 3 = x.f := encodeFields_slice fun k hk => by interval_cases k <;> rfl
  have hdst : (encodeFields x).extractLsb' 4 3 = x.dst := encodeFields_slice fun k hk => by interval_cases k <;> rfl
  simp only [decodeFields, ha, hb, hf, hdst, selectLow_encodeFields, selectHigh_encodeFields h, bitAt, encodeFields_bit]
  rfl

/-- Encoding what is cut from a word gives back the word: each of its 24 bits is a bit of one field (R51). -/
theorem encodeFields_decodeFields (w : Word) : encodeFields (decodeFields w) = w := by
  apply BitVec.eq_of_getLsbD_eq
  intro k hk
  have htop : (selectHigh w)[2] = w[15] := by
    rw [← BitVec.getLsbD_eq_getElem, selectHigh_eq, BitVec.getLsbD_append]
    simp
  rw [encodeFields_bit]
  interval_cases k <;> simp [fieldBits, decodeFields, bitAt, htop, selectLow]

/-- Settles O6: the two directions above. -/
theorem fieldsAndWordsAreInBijection : Obligations.FieldsAndWordsAreInBijection :=
  ⟨encodeFields_decodeFields, fun _ => decodeFields_encodeFields⟩

/-- Settles O2: the number by `selectHigh_toNat`, the bits by `selectHigh_eq`, and a code is that of the word that its
record encodes to. -/
theorem highSelectIsMaskAndFold : Obligations.HighSelectIsMaskAndFold := by
  refine ⟨fun w => ?number, selectHigh_eq, fun w => ?bit14, fun v => ?reached⟩
  case number =>
    refine (selectHigh_toNat w).trans ?_
    split_ifs <;> omega
  case bit14 =>
    have htop : (w ^^^ 0x004000#24).getLsbD 15 = w.getLsbD 15 := by simp
    have hlow : (w ^^^ 0x004000#24).extractLsb' 12 2 = w.extractLsb' 12 2 := by
      apply BitVec.eq_of_getLsbD_eq
      intro k hk
      interval_cases k <;> simp
    simp only [decodeFields, selectHigh_eq, htop, hlow]
  case reached =>
    exact ⟨encodeFields { Fields.zero with sh := v, sl := v },
      selectHigh_encodeFields (x := { Fields.zero with sh := v, sl := v }) (beq_self_eq_true _)⟩

/-- Settles O4: the two booleans are those of the word's bits 11, 2 and 3, which leaves eight cases. -/
theorem eosAndShowYOfEveryWord : Obligations.EosAndShowYOfEveryWord := by
  refine ⟨fun w => ?_, by decide⟩
  have hcases : ∀ h j s : Bool, (h = false → ¬((h || (j && !s)) = true ∧ (h || (j && s)) = true)) ∧
      (h = true → (h || (j && !s)) = true ∧ (h || (j && s)) = true) := by decide
  exact ⟨rfl, rfl, hcases (w.getLsbD 11) (w.getLsbD 2) (w.getLsbD 3)⟩

/-- Settles O11: the bound that `wordOfNat` tests. -/
theorem onlyNumbersOf24BitsAreWords : Obligations.OnlyNumbersOf24BitsAreWords :=
  fun _ => ⟨fun h => if_pos h, fun h => if_neg (Nat.not_lt.2 h)⟩

/-- Settles O12: the three words evaluated. -/
theorem writtenOutWordsDecodeToTheirRows : Obligations.WrittenOutWordsDecodeToTheirRows := by
  unfold Obligations.WrittenOutWordsDecodeToTheirRows
  decide

end Sys2Proof.Proofs
end

