-- ==== Sys2Proof/Proofs/AddressLoad.lean ====
section
/-! The rows that act in a word (spec/30_encoding.md sections 3 and 4). A word is the encoding of its fields, so that the
masks of the opcode table act on records: `mask_high` and the other patterns of Laws/Encoding say what each leaves.
An address-load word is the canonical word of its ADDRLOAD row (`eq_encode_of_isAddrLoad`). -/

namespace Sys2Proof.Proofs

open Sys2Proof Sys2Proof.Machine Sys2Proof.Laws

/-! ### Membership in the rows of a word -/

theorem mem_decodeRows {w : Word} {i : Instr} :
    i ∈ decodeRows w ↔ i = .mw24 (decodeFields w) ∨ i ∈ flagRows (decodeFields w) ∨
      i ∈ bodyRows w (decodeFields w) ∨ i = jumpRow (decodeFields w) := by
  simp only [decodeRows, List.mem_append, List.mem_singleton, or_assoc]

theorem mem_flagRows {x : Fields} {i : Instr} :
    i ∈ flagRows x ↔ (x.C = true ∧ i = .carry) ∨ (x.H = true ∧ i = .flagH) ∨ (x.L = true ∧ i = .flagL) ∨
      (x.S = true ∧ i = .flagS) := by
  simp only [flagRows, List.mem_append, List.mem_ite_nil_right, List.mem_singleton, or_assoc]

theorem mem_transferRows {x : Fields} {i : Instr} :
    i ∈ transferRows x ↔ i = aluRow x.f x.sh .high x.a x.b x.C ∨
      (x.sh ≠ x.sl ∧ (i = altRow x ∨ i = aluRow x.f x.sl .low x.a x.b x.C)) ∨
      (x.M = true ∧ i = .mux x.f x.sh x.sl x.a x.b x.C) ∨ i = dstRow x.dst x.showY x.b := by
  simp only [transferRows, List.mem_append, List.mem_ite_nil_right, List.mem_cons, List.not_mem_nil, or_false,
    or_assoc]

theorem bodyRows_addrLoad {w : Word} (h : isAddrLoad w = true) (x : Fields) :
    bodyRows w x = [.addrload x.jaddr (x.dst.getLsbD 2) x.J] := if_pos h

theorem bodyRows_transfer {w : Word} (h : isAddrLoad w = false) (x : Fields) : bodyRows w x = transferRows x :=
  if_neg (Bool.eq_false_iff.1 h)

/-! ### The address-load test -/

/-- The test on the low half is the table's pattern of ADDRLOAD on the word (R57, R201). -/
theorem isAddrLoad_iff_mask (w : Word) : isAddrLoad w = true ↔ w &&& 0x00FFBB#24 = 0x000090#24 := by
  have hmask : (w &&& 0x00FFBB#24) = (w.setWidth 16 &&& addrLoadMask).setWidth 24 := by
    apply BitVec.eq_of_getLsbD_eq
    intro k hk
    interval_cases k <;> simp [addrLoadMask]
  rw [isAddrLoad, beq_iff_eq, hmask]
  refine ⟨fun h => by rw [h]; rfl, fun h => ?_⟩
  have hlow := congrArg (BitVec.setWidth 16) h
  rwa [BitVec.setWidth_setWidth_of_le _ (by omega), BitVec.setWidth_eq] at hlow

/-- The bits of the low half that the test does not look at are 2 and 6; the others are the sentinel's. -/
theorem getLsbD_of_isAddrLoad {w : Word} (h : isAddrLoad w = true) {k : Nat} (hk : k < 16) (h2 : k ≠ 2) (h6 : k ≠ 6) :
    w.getLsbD k = addrLoadSentinel.getLsbD k := by
  have hmask : ∀ k < 16, k ≠ 2 → k ≠ 6 → addrLoadMask.getLsbD k = true := by decide
  have hbit := congrArg (BitVec.getLsbD · k) (eq_of_beq h)
  rwa [BitVec.getLsbD_and, hmask k hk h2 h6, Bool.and_true, BitVec.getLsbD_setWidth, decide_eq_true hk,
    Bool.true_and] at hbit

/-- The destination code of an address-load word: its top bit is free, its low two are the sentinel's. -/
theorem addrLoadDst_bits : ∀ bit6 : Bool,
    (BitVec.ofBool bit6 ++ 1#2).getLsbD 0 = true ∧ (BitVec.ofBool bit6 ++ 1#2).getLsbD 1 = false ∧
      (BitVec.ofBool bit6 ++ 1#2).getLsbD 2 = bit6 := by
  decide

/-- An address-load word is the canonical word of its ADDRLOAD row: its free bits are the row's operands (R59). -/
theorem eq_encode_of_isAddrLoad {w : Word} (h : isAddrLoad w = true) :
    w = encode (.addrload (w.extractLsb' 16 8) (w.getLsbD 6) (w.getLsbD 2)) := by
  obtain ⟨hdst0, hdst1, hdst2⟩ := addrLoadDst_bits (w.getLsbD 6)
  apply BitVec.eq_of_getLsbD_eq
  intro k hk
  rw [encode, encodeFields_bit]
  by_cases hfixed : k < 16 ∧ k ≠ 2 ∧ k ≠ 6
  · obtain ⟨hlow, h2, h6⟩ := hfixed
    rw [getLsbD_of_isAddrLoad h hlow h2 h6]
    simp only [fieldBits, instrFields, Fields.zero, hdst0, hdst1, hdst2]
    interval_cases k <;> simp [addrLoadSentinel] at h2 h6 ⊢
  · simp only [fieldBits, instrFields, Fields.zero, hdst0, hdst1, hdst2]
    interval_cases k <;> simp at hfixed ⊢

theorem selectsAgree_zero : selectsAgree Fields.zero.sh Fields.zero.sl = true := rfl

/-- The fields of an address-load word (R201): `L` alone of the flags, and the sentinel's part of `dst`. -/
theorem decodeFields_of_isAddrLoad {w : Word} (h : isAddrLoad w = true) :
    decodeFields w = instrFields (.addrload (w.extractLsb' 16 8) (w.getLsbD 6) (w.getLsbD 2)) := by
  conv_lhs => rw [eq_encode_of_isAddrLoad h]
  exact decodeFields_encodeFields selectsAgree_zero

theorem isAddrLoad_of_L_clear {x : Fields} (hL : x.L = false) : isAddrLoad (encodeFields x) = false := by
  refine Bool.eq_false_iff.2 fun h => ?_
  have hbit := getLsbD_of_isAddrLoad h (k := 7) (by omega) (by omega) (by omega)
  rw [encodeFields_bit] at hbit
  exact Bool.noConfusion (hL.symm.trans hbit)

theorem isAddrLoad_encode_addrload (jaddr : Address) (bit6 jBit : Bool) :
    isAddrLoad (encode (.addrload jaddr bit6 jBit)) = true :=
  (isAddrLoad_iff_mask _).2 (TablePattern.addrload jaddr bit6 jBit rfl)

/-- The low half of an address-load word: the sentinel and its two free bits. -/
theorem setWidth_of_isAddrLoad {w : Word} (h : isAddrLoad w = true) :
    w.setWidth 16 = (encode (.addrload 0 (w.getLsbD 6) (w.getLsbD 2))).setWidth 16 := by
  conv_lhs => rw [eq_encode_of_isAddrLoad h]
  apply BitVec.eq_of_getLsbD_eq
  intro k hk
  rw [BitVec.getLsbD_setWidth, BitVec.getLsbD_setWidth, encode, encode, encodeFields_bit, encodeFields_bit]
  interval_cases k <;> rfl

/-- The rows of an address-load word (R58, R201): the format, FLAG_L, ADDRLOAD and the jump row. -/
theorem decodeRows_of_isAddrLoad {w : Word} (h : isAddrLoad w = true) :
    decodeRows w = [.mw24 (decodeFields w), .flagL, .addrload (w.extractLsb' 16 8) (w.getLsbD 6) (w.getLsbD 2),
      if w.getLsbD 2 then .jmpUncond (some (w.extractLsb' 16 8)) else .jmpNone] := by
  obtain ⟨-, -, hdst2⟩ := addrLoadDst_bits (w.getLsbD 6)
  rw [decodeRows, bodyRows_addrLoad h, jumpRow, Fields.jumpAddress, decodeFields_jaddr, decodeFields_of_isAddrLoad h]
  simp only [flagRows, instrFields, Fields.zero, jumpTarget, hdst2]
  rfl

/-- Settles O9: an address-load word is `encode` of its ADDRLOAD row, so that its fields and its rows are that row's. -/
theorem addressLoadWordsAndTheirRows : Obligations.AddressLoadWordsAndTheirRows := by
  refine ⟨fun w => ⟨fun h => ?lowHalf, fun h => ?sentinel⟩, fun w h => ?fields⟩
  case lowHalf =>
    have hfree : ∀ bit6 jBit : Bool, (encode (.addrload 0 bit6 jBit)).setWidth 16 ∈
        [0x0090#16, 0x0094#16, 0x00D0#16, 0x00D4#16] := by decide
    exact setWidth_of_isAddrLoad h ▸ hfree _ _
  case sentinel =>
    simp only [List.mem_cons, List.not_mem_nil, or_false] at h
    obtain hlow | hlow | hlow | hlow := h <;> rw [isAddrLoad, hlow] <;> rfl
  case fields =>
    have hdst : ∀ bit6 : Bool, BitVec.ofBool bit6 ++ 1#2 = 1#3 ∨ BitVec.ofBool bit6 ++ 1#2 = 5#3 := by decide
    have hfields := decodeFields_of_isAddrLoad h
    have hrows := decodeRows_of_isAddrLoad h
    rw [hfields] at hrows ⊢
    exact ⟨rfl, rfl, rfl, rfl, rfl, hdst _, rfl, rfl, rfl, hrows⟩

end Sys2Proof.Proofs
end

