-- ==== Sys2Proof/Proofs/Rows.lean ====
section
/-! Decoding and encoding row by row (spec/30_encoding.md section 3). A row's word holds the row's own fields, so that
the row is among those of the word (`mem_decodeRows_encodeFields`); and a word that a row is decoded from shows, under
the row's mask, the row's match value, because it is the encoding of its fields. -/

namespace Sys2Proof.Proofs

open Sys2Proof Sys2Proof.Machine Sys2Proof.Laws

/-! ### From a row to its word -/

/-- The rows that act in the word of a field record. -/
theorem mem_decodeRows_encodeFields {x : Fields} (h : selectsAgree x.sh x.sl = true) {i : Instr} :
    i ∈ decodeRows (encodeFields x) ↔
      i = .mw24 x ∨ i ∈ flagRows x ∨ i ∈ bodyRows (encodeFields x) x ∨ i = jumpRow x := by
  rw [mem_decodeRows, decodeFields_encodeFields h]

/-- Where `L` is clear the word is no address-load word, so that its body is the transfer's. -/
theorem mem_decodeRows_of_mem_transferRows {x : Fields} (h : selectsAgree x.sh x.sl = true) (hL : x.L = false)
    {i : Instr} (hi : i ∈ transferRows x) : i ∈ decodeRows (encodeFields x) := by
  rw [mem_decodeRows_encodeFields h, bodyRows_transfer (isAddrLoad_of_L_clear hL)]
  exact .inr (.inr (.inl hi))

/-- An ALU row acts in its word: by the high path as the main lookup, by the low path as the alternate, which the
complement of bit 14 in bit 15 makes present (R57, R212). -/
theorem aluRow_mem_decodeRows (f sel : BitVec 3) (path : SelPath) (a b : BitVec 4) (c : Bool) :
    aluRow f sel path a b c ∈ decodeRows (encodeFields (aluFields f sel path a b c)) := by
  cases path with
  | high =>
    have hagree : ∀ v : BitVec 3, selectsAgree v (v &&& 3#3) = true := by decide
    exact mem_decodeRows_of_mem_transferRows (hagree sel) rfl (mem_transferRows.2 (.inl rfl))
  | low =>
    have hagree : ∀ v : BitVec 3, selectsAgree (v ^^^ 4#3) v = true := by decide
    have hdiffer : ∀ v : BitVec 3, v ^^^ 4#3 ≠ v := by decide
    exact mem_decodeRows_of_mem_transferRows (hagree sel) rfl
      (mem_transferRows.2 (.inr (.inl ⟨hdiffer sel, .inr rfl⟩)))

/-- `showY` is written as `H`, which makes it so whatever `J` and `S` are (R95). -/
theorem dstRow_mem_decodeRows (dst : BitVec 3) (showY : Bool) (b : BitVec 4) :
    dstRow dst showY b ∈ decodeRows (encodeFields (dstFields dst showY b)) := by
  have hshowY : (dstFields dst showY b).showY = showY := Bool.or_false showY
  refine mem_decodeRows_of_mem_transferRows (x := dstFields dst showY b) selectsAgree_zero rfl
    (mem_transferRows.2 (.inr (.inr (.inr ?_))))
  rw [hshowY]
  rfl

/-- An address cut in two at bit 4 and put together again. -/
theorem extractLsb'_append_extractLsb'_address (t : Address) : t.extractLsb' 4 4 ++ t.extractLsb' 0 4 = t :=
  (BitVec.extractLsb'_append_extractLsb'_eq_extractLsb' rfl).trans BitVec.extractLsb'_eq_self

theorem jumpAddress_jumpFields (sBit : Bool) (target : Option Address) :
    (jumpFields sBit target).jumpAddress = target := by
  cases target with
  | none => rfl
  | some t => exact congrArg some (extractLsb'_append_extractLsb'_address t)

theorem jumpRow_mem_decodeRows (sBit : Bool) (target : Option Address) :
    (if sBit then .jmpCond target else .jmpUncond target) ∈ decodeRows (encodeFields (jumpFields sBit target)) := by
  have hagree : selectsAgree (jumpFields sBit target).sh (jumpFields sBit target).sl = true := by cases target <;> rfl
  have hrow : jumpRow (jumpFields sBit target) = if sBit then .jmpCond target else .jmpUncond target := by
    have hJ : (jumpFields sBit target).J = true := by cases target <;> rfl
    have hS : (jumpFields sBit target).S = sBit := by cases target <;> rfl
    rw [jumpRow, jumpAddress_jumpFields, hJ, hS, if_pos rfl]
  exact (mem_decodeRows_encodeFields hagree).2 (.inr (.inr (.inr hrow.symm)))

theorem flagRow_mem_decodeRows {i : Instr} (h : selectsAgree (instrFields i).sh (instrFields i).sl = true)
    (hi : i ∈ flagRows (instrFields i)) : i ∈ decodeRows (encode i) :=
  (mem_decodeRows_encodeFields h).2 (.inr (.inl hi))

/-- The shared two bits under each of the two top bits (R96). -/
theorem altSelect_codes : ∀ ss : BitVec 2,
    selectsAgree (1#1 ++ ss) (0#1 ++ ss) = true ∧ selectsAgree (0#1 ++ ss) (1#1 ++ ss) = true ∧
      1#1 ++ ss ≠ 0#1 ++ ss ∧ (1#1 ++ ss).getLsbD 2 = true ∧ (0#1 ++ ss).getLsbD 2 = false ∧
      (1#1 ++ ss).setWidth 2 = ss ∧ (0#1 ++ ss).setWidth 2 = ss := by
  decide

/-- An ALT_SELECT row acts in the word of its record, whose select codes differ. -/
theorem altRow_mem_decodeRows {x : Fields} (h : selectsAgree x.sh x.sl = true) (hL : x.L = false) (hne : x.sh ≠ x.sl) :
    altRow x ∈ decodeRows (encodeFields x) :=
  mem_decodeRows_of_mem_transferRows h hL (mem_transferRows.2 (.inr (.inl ⟨hne, .inl rfl⟩)))

theorem addrload_mem_decodeRows (jaddr : Address) (bit6 jBit : Bool) :
    .addrload jaddr bit6 jBit ∈ decodeRows (encode (.addrload jaddr bit6 jBit)) := by
  obtain ⟨-, -, hdst2⟩ := addrLoadDst_bits bit6
  have haddr : (instrFields (.addrload jaddr bit6 jBit)).jaddr = jaddr :=
    extractLsb'_append_extractLsb'_address jaddr
  refine (mem_decodeRows_encodeFields (x := instrFields (.addrload jaddr bit6 jBit)) selectsAgree_zero).2
    (.inr (.inr (.inl ?_)))
  have hbody := bodyRows_addrLoad (isAddrLoad_encode_addrload jaddr bit6 jBit)
  rw [encode] at hbody
  rw [hbody, haddr, List.mem_singleton]
  exact congrArg (Instr.addrload jaddr · jBit) hdst2.symm

/-- Settles O7: row by row; the rows not named are the 64 ALU rows. -/
theorem everyWellFormedRowIsDecodedFromItsWord : Obligations.EveryWellFormedRowIsDecodedFromItsWord := by
  intro i hwf
  cases i with
  | mw24 x => exact (mem_decodeRows_encodeFields hwf).2 (.inl rfl)
  | mux f sh sl a b c =>
    exact mem_decodeRows_of_mem_transferRows (x := instrFields (.mux f sh sl a b c)) hwf rfl
      (mem_transferRows.2 (.inr (.inr (.inl ⟨rfl, rfl⟩))))
  | altSelectHigh f ss a b c =>
    obtain ⟨hagree, -, hne, hbit, -, -, hss⟩ := altSelect_codes ss
    have hmem := altRow_mem_decodeRows (x := instrFields (.altSelectHigh f ss a b c)) hagree rfl hne
    rwa [altRow, instrFields, if_pos hbit, hss] at hmem
  | altSelectLow f ss a b c =>
    obtain ⟨-, hagree, hne, -, hbit, hss, -⟩ := altSelect_codes ss
    have hmem := altRow_mem_decodeRows (x := instrFields (.altSelectLow f ss a b c)) hagree rfl hne.symm
    rwa [altRow, instrFields, if_neg (Bool.eq_false_iff.1 hbit), hss] at hmem
  | dst0 | dst1 | dst2 | dst3 | dst4 | dst5 | dst6 | dst7 => exact dstRow_mem_decodeRows _ _ _
  | jmpNone => exact (mem_decodeRows_encodeFields selectsAgree_zero).2 (.inr (.inr (.inr rfl)))
  | jmpUncond target => exact jumpRow_mem_decodeRows false target
  | jmpCond target => exact jumpRow_mem_decodeRows true target
  | flagH | flagL | flagS | carry => exact flagRow_mem_decodeRows rfl List.mem_cons_self
  | addrload jaddr bit6 jBit => exact addrload_mem_decodeRows jaddr bit6 jBit
  | _ => exact aluRow_mem_decodeRows _ _ _ _ _ _

/-! ### From a word to the table -/

/-- The mask of an ALU row's path in the opcode table (R57). -/
def pathMask : SelPath → Word
  | .high => 0x00B700#24
  | .low => 0x007700#24

/-- The row of a pair in the opcode table: its mask is its path's, its match value what that leaves of its word. -/
theorem aluRow_table (f sel : BitVec 3) (path : SelPath) (a b : BitVec 4) (c : Bool) :
    WellFormed (aluRow f sel path a b c) = true ∧ rowMask (aluRow f sel path a b c) = pathMask path ∧
      rowMatch (aluRow f sel path a b c) = encodeFields (aluFields f sel path 0 0 false) &&& pathMask path := by
  obtain ⟨f⟩ := f
  obtain ⟨sel⟩ := sel
  cases path <;> fin_cases f <;> fin_cases sel <;> exact ⟨rfl, rfl, rfl⟩

/-- The row of a destination code in the opcode table. -/
theorem dstRow_table (dst : BitVec 3) (showY : Bool) (b : BitVec 4) :
    WellFormed (dstRow dst showY b) = true ∧ rowMask (dstRow dst showY b) = 0x000070#24 ∧
      rowMatch (dstRow dst showY b) = encodeFields { Fields.zero with dst := dst } := by
  obtain ⟨dst⟩ := dst
  fin_cases dst <;> exact ⟨rfl, rfl, rfl⟩

/-- What the opcode table asks of a row of a word (R57). -/
def MatchesTable (w : Word) (i : Instr) : Prop := WellFormed i = true ∧ w &&& rowMask i = rowMatch i

/-- The pattern of a row that acts where one bit is set is that bit. -/
theorem and_twoPow_of_set {w : Word} {k : Nat} (h : w.getLsbD k = true) :
    w &&& BitVec.twoPow 24 k = BitVec.twoPow 24 k :=
  (BitVec.and_twoPow w k).trans (if_pos h)

theorem matchesTable_flagRows {w : Word} {i : Instr} (hi : i ∈ flagRows (decodeFields w)) : MatchesTable w i := by
  obtain ⟨hbit, rfl⟩ | ⟨hbit, rfl⟩ | ⟨hbit, rfl⟩ | ⟨hbit, rfl⟩ := mem_flagRows.1 hi
  · exact ⟨rfl, and_twoPow_of_set (k := 0) hbit⟩
  · exact ⟨rfl, and_twoPow_of_set (k := 11) hbit⟩
  · exact ⟨rfl, and_twoPow_of_set (k := 7) hbit⟩
  · exact ⟨rfl, and_twoPow_of_set (k := 3) hbit⟩

/-- The main row's pattern is `f` and bits 15, 13 and 12, which are `sh`. -/
theorem matchesTable_main (w : Word) (a b : BitVec 4) (c : Bool) :
    MatchesTable w (aluRow (decodeFields w).f (decodeFields w).sh .high a b c) := by
  obtain ⟨hwf, hmask, hmatch⟩ := aluRow_table (decodeFields w).f (decodeFields w).sh .high a b c
  have hshared : ∀ sh sl : BitVec 3, selectsAgree sh sl = true → sl &&& 3#3 = sh &&& 3#3 &&& 3#3 := by decide
  refine ⟨hwf, ?_⟩
  rw [hmask, hmatch, pathMask, mask_high, ← encodeFields_decodeFields w, mask_high, encodeFields_decodeFields,
    hshared _ _ (selectsAgree_decodeFields w)]
  rfl

/-- The alternate's row has the pattern `f` and bits 14 to 12, which are `sl`. -/
theorem matchesTable_alternate (w : Word) (a b : BitVec 4) (c : Bool) :
    MatchesTable w (aluRow (decodeFields w).f (decodeFields w).sl .low a b c) := by
  obtain ⟨hwf, hmask, hmatch⟩ := aluRow_table (decodeFields w).f (decodeFields w).sl .low a b c
  refine ⟨hwf, ?_⟩
  rw [hmask, hmatch, pathMask, mask_low, ← encodeFields_decodeFields w, mask_low, encodeFields_decodeFields]
  rfl

/-- ALT_SELECT's two patterns are the two ways in which bits 15 and 14 can differ (R96). -/
theorem matchesTable_altRow {w : Word} (hne : (decodeFields w).sh ≠ (decodeFields w).sl) :
    MatchesTable w (altRow (decodeFields w)) := by
  have htop : ∀ sh sl : BitVec 3, selectsAgree sh sl = true → sh ≠ sl →
      encodeFields { Fields.zero with sh := sh, sl := sl &&& 4#3 } =
        if sh.getLsbD 2 then 0x008000#24 else 0x004000#24 := by decide
  have hpattern := htop _ _ (selectsAgree_decodeFields w) hne
  rw [← mask_alt, encodeFields_decodeFields] at hpattern
  unfold altRow
  split_ifs at hpattern ⊢ with hbit
  · exact ⟨rfl, hpattern⟩
  · exact ⟨rfl, hpattern⟩

theorem matchesTable_dstRow (w : Word) (showY : Bool) (b : BitVec 4) :
    MatchesTable w (dstRow (decodeFields w).dst showY b) := by
  obtain ⟨hwf, hmask, hmatch⟩ := dstRow_table (decodeFields w).dst showY b
  refine ⟨hwf, ?_⟩
  rw [hmask, hmatch, ← mask_dst, encodeFields_decodeFields]

theorem matchesTable_bodyRows {w : Word} {i : Instr} (hi : i ∈ bodyRows w (decodeFields w)) : MatchesTable w i := by
  cases hw : isAddrLoad w with
  | true =>
    rw [bodyRows_addrLoad hw, List.mem_singleton] at hi
    exact hi ▸ ⟨rfl, (isAddrLoad_iff_mask w).1 hw⟩
  | false =>
    rw [bodyRows_transfer hw, mem_transferRows] at hi
    obtain rfl | ⟨hne, rfl | rfl⟩ | ⟨hM, rfl⟩ | rfl := hi
    · exact matchesTable_main w _ _ _
    · exact matchesTable_altRow hne
    · exact matchesTable_alternate w _ _ _
    · exact ⟨selectsAgree_decodeFields w, and_twoPow_of_set (k := 1) hM⟩
    · exact matchesTable_dstRow w _ _

/-- The jump row is chosen by `J`, and where that is set by `S` (R224 to R226). -/
theorem matchesTable_jumpRow (w : Word) : MatchesTable w (jumpRow (decodeFields w)) := by
  have hpattern := mask_jump (decodeFields w)
  rw [encodeFields_decodeFields] at hpattern
  unfold jumpRow
  split_ifs with hJ hS
  · rw [hJ, hS] at hpattern
    exact ⟨rfl, hpattern⟩
  · rw [hJ, Bool.eq_false_iff.2 hS] at hpattern
    exact ⟨rfl, hpattern⟩
  · exact ⟨rfl, (BitVec.and_twoPow w 2).trans (if_neg hJ)⟩

/-- Settles O8: group by group. -/
theorem decodedRowsMatchTheOpcodeTable : Obligations.DecodedRowsMatchTheOpcodeTable := by
  intro w i hi
  obtain rfl | hflag | hbody | rfl := mem_decodeRows.1 hi
  · exact ⟨selectsAgree_decodeFields w, BitVec.and_zero⟩
  · exact matchesTable_flagRows hflag
  · exact matchesTable_bodyRows hbody
  · exact matchesTable_jumpRow w

/-! ### The lead row -/

/-- Settles O10: the lead row is found among the rows of the word, or it is the format row. -/
theorem leadRowActsInItsWord : Obligations.LeadRowActsInItsWord := by
  refine ⟨fun w => ?_, fun n hn => ?_⟩
  · unfold leadRow
    split
    next i hfound => exact List.mem_of_find?_eq_some hfound
    next => exact mem_decodeRows.2 (.inl rfl)
  · obtain ⟨hword, -⟩ := onlyNumbersOf24BitsAreWords n
    rw [decodeTableWord, Nat.mod_eq_of_lt hn, hword hn]

/-! ### The rows of single bits -/

/-- A flag row acts in a word exactly where its bit is set: its pattern of the table is that bit. -/
theorem flagRow_acts_iff {w : Word} {i : Instr} {k : Nat} (hk : k < 24) (hmask : rowMask i = BitVec.twoPow 24 k)
    (hmatch : rowMatch i = BitVec.twoPow 24 k) (hset : w.getLsbD k = true → i ∈ flagRows (decodeFields w)) :
    i ∈ decodeRows w ↔ w.getLsbD k = true := by
  refine ⟨fun hi => ?_, fun hbit => mem_decodeRows.2 (.inr (.inl (hset hbit)))⟩
  obtain ⟨-, hpattern⟩ := decodedRowsMatchTheOpcodeTable w i hi
  rw [hmask, hmatch] at hpattern
  have hbit := congrArg (BitVec.getLsbD · k) hpattern
  simpa [hk] using hbit

theorem carry_mem_decodeRows_iff (w : Word) : .carry ∈ decodeRows w ↔ w.getLsbD 0 = true :=
  flagRow_acts_iff (by omega) rfl rfl fun h => mem_flagRows.2 (.inl ⟨h, rfl⟩)

theorem flagH_mem_decodeRows_iff (w : Word) : .flagH ∈ decodeRows w ↔ w.getLsbD 11 = true :=
  flagRow_acts_iff (by omega) rfl rfl fun h => mem_flagRows.2 (.inr (.inl ⟨h, rfl⟩))

theorem flagL_mem_decodeRows_iff (w : Word) : .flagL ∈ decodeRows w ↔ w.getLsbD 7 = true :=
  flagRow_acts_iff (by omega) rfl rfl fun h => mem_flagRows.2 (.inr (.inr (.inl ⟨h, rfl⟩)))

theorem flagS_mem_decodeRows_iff (w : Word) : .flagS ∈ decodeRows w ↔ w.getLsbD 3 = true :=
  flagRow_acts_iff (by omega) rfl rfl fun h => mem_flagRows.2 (.inr (.inr (.inr ⟨h, rfl⟩)))

/-- Settles O25: CARRY acts on bit 0, and the main row's carry operand is the `C` that is cut from that bit. -/
theorem carryRowDrivesC : Obligations.CarryRowDrivesC := by
  refine ⟨fun w => ⟨rfl, carry_mem_decodeRows_iff w, fun hw => ?_⟩, fun s => rfl⟩
  exact mem_decodeRows.2 (.inr (.inr (.inl (bodyRows_transfer hw _ ▸ mem_transferRows.2 (.inl rfl)))))

end Sys2Proof.Proofs
end

