-- ==== Sys2Proof/Proofs/Frame.lean ====
section
/-! The frame of every row (spec/20_memory.md section 1): a row leaves the edge, the input port and each wire that it does
not drive as they were. That nothing but the block changes is `exec_drivesBlock`; what is left is one lemma for each
way of driving the block. -/

namespace Sys2Proof.Proofs

open Sys2Proof Sys2Proof.Machine Sys2Proof.Laws

/-- `m` leaves the input port, and every wire outside the list, as they were. -/
def FramesWires (driven : List Wire) (m : State → Result) : Prop :=
  ∀ s t, m s = .next t → t.block.word = s.block.word ∧ ∀ wire, wire ∉ driven → sameWire s t wire

theorem framesWires_next {driven : List Wire} {g : State → State}
    (h : ∀ s, (g s).block.word = s.block.word ∧ ∀ wire, wire ∉ driven → sameWire s (g s) wire) :
    FramesWires driven fun s => .next (g s) := by
  intro s t hnext
  cases hnext
  exact h s

theorem framesWires_fields (upd : Fields → Fields) :
    FramesWires [.fields] fun s => .next (driveFields (upd s.block.fields) s) :=
  framesWires_next fun s => ⟨rfl, fun wire hwire => by
    cases wire with
    | fields => exact absurd List.mem_cons_self hwire
    | _ => rfl⟩

theorem framesWires_jump (j : JumpForm) (upd : Fields → Fields) :
    FramesWires [.fields, .jump] fun s => .next (driveJump j (driveFields (upd s.block.fields) s)) :=
  framesWires_next fun s => ⟨rfl, fun wire hwire => by
    cases wire with
    | fields => exact absurd List.mem_cons_self hwire
    | jump => exact absurd (List.mem_cons_of_mem _ List.mem_cons_self) hwire
    | _ => rfl⟩

theorem framesWires_mux (m : MuxBranch) : FramesWires [.fields, .mux] fun s => .next (driveMux m (driveM true s)) :=
  framesWires_next fun s => ⟨rfl, fun wire hwire => by
    cases wire with
    | fields => exact absurd List.mem_cons_self hwire
    | mux => exact absurd (List.mem_cons_of_mem _ List.mem_cons_self) hwire
    | _ => rfl⟩

theorem framesWires_dest (d : DestPort) : FramesWires [.dest] fun s => .next (driveDest d s) :=
  framesWires_next fun s => ⟨rfl, fun wire hwire => by
    cases wire with
    | dest => exact absurd List.mem_cons_self hwire
    | _ => rfl⟩

theorem framesWires_addrLoad : FramesWires [.addrLoad] fun s => .next (driveAddrLoad s) :=
  framesWires_next fun s => ⟨rfl, fun wire hwire => by
    cases wire with
    | addrLoad => exact absurd List.mem_cons_self hwire
    | _ => rfl⟩

/-- The wire of the lookup that a path names (R57). -/
def pathWire : SelPath → Wire
  | .high => .main
  | .low => .alt

theorem framesWires_lookup (path : SelPath) (e : Expr) :
    FramesWires [pathWire path] fun s => .next (driveLookup path e s) := by
  cases path with
  | high =>
    exact framesWires_next fun s => ⟨rfl, fun wire hwire => by
      cases wire with
      | main => exact absurd List.mem_cons_self hwire
      | _ => rfl⟩
  | low =>
    exact framesWires_next fun s => ⟨rfl, fun wire hwire => by
      cases wire with
      | alt => exact absurd List.mem_cons_self hwire
      | _ => rfl⟩

/-- Each row's meaning is one of the drives above; the rows not named are the 64 ALU rows. -/
theorem exec_framesWires (i : Instr) : FramesWires (drives i) (exec i) := by
  cases i with
  | mw24 x => exact framesWires_fields fun _ => x
  | flagH => exact framesWires_fields fun x => { x with H := true }
  | flagL => exact framesWires_fields fun x => { x with L := true }
  | flagS => exact framesWires_fields fun x => { x with S := true }
  | carry => exact framesWires_fields fun x => { x with C := true }
  | jmpNone => exact framesWires_jump .noJump fun x => { x with J := false }
  | jmpUncond target => exact framesWires_jump (.uncond target) fun x => { x with J := true, S := false }
  | jmpCond target => exact framesWires_jump (.cond target) fun x => { x with J := true, S := true }
  | mux f sh sl a b c => exact framesWires_mux (muxBranch f sh sl a b c)
  | altSelectHigh | altSelectLow => exact framesWires_lookup .low _
  | dst0 | dst1 | dst2 | dst3 | dst4 | dst5 | dst6 | dst7 => exact framesWires_dest _
  | addrload => exact framesWires_addrLoad
  | _ path => cases path <;> exact framesWires_lookup _ _

/-- Settles O29: the edge by `exec_drivesBlock`, the port and the wires by `exec_framesWires`. -/
theorem rowsDriveOnlyTheirOwnWires : Obligations.RowsDriveOnlyTheirOwnWires := by
  intro i s t hexec
  obtain ⟨hword, hwires⟩ := exec_framesWires i s t hexec
  obtain ⟨g, hnext, -⟩ := exec_drivesBlock i
  cases (hnext s).symm.trans hexec
  exact ⟨⟨rfl, rfl, rfl, rfl, rfl, rfl⟩, fun _ => rfl, hword, hwires⟩

end Sys2Proof.Proofs
end

