-- ==== Sys2Proof/Proofs/WordBlock.lean ====
section
/-! The block of a word (spec/43_assembler.md section 7). Running the rows of a word, in whatever order, leaves the block
at `wordBlock w`: a row drives a wire to the value that it has there (`drivesTo_of_mem_decodeRows`) and no other wire,
and each wire that no row drives has that value from the start. -/

namespace Sys2Proof.Proofs

open Sys2Proof Sys2Proof.Machine Sys2Proof.Laws

/-! ### The wires that rows drive -/

theorem drives_aluRow (f sel : BitVec 3) (path : SelPath) (a b : BitVec 4) (c : Bool) :
    drives (aluRow f sel path a b c) = [pathWire path] := by
  obtain ⟨f⟩ := f
  obtain ⟨sel⟩ := sel
  cases path <;> fin_cases f <;> fin_cases sel <;> rfl

theorem drives_altRow (x : Fields) : drives (altRow x) = [.alt] := by
  unfold altRow
  split <;> rfl

theorem drives_dstRow (dst : BitVec 3) (showY : Bool) (b : BitVec 4) : drives (dstRow dst showY b) = [.dest] := by
  obtain ⟨dst⟩ := dst
  fin_cases dst <;> rfl

theorem drives_jumpRow (x : Fields) : drives (jumpRow x) = [.fields, .jump] := by
  unfold jumpRow
  split_ifs <;> rfl

/-! ### What the rows of a word drive -/

/-- The block once all rows of a word have run, as one function of the word (R222). -/
def wordBlock (w : Word) : Block :=
  let x := decodeFields w
  { word := some w
    fields := x
    main := if isAddrLoad w then none else some (render x.f x.sh x.a x.b x.C)
    alt := if isAddrLoad w = false ∧ x.sh ≠ x.sl then some (render x.f x.sl x.a x.b x.C) else none
    mux := if isAddrLoad w = false ∧ x.M = true then some (muxBranch x.f x.sh x.sl x.a x.b x.C) else none
    dest := if isAddrLoad w then none else some ⟨destTable x.showY x.dst, x.b⟩
    addrLoad := isAddrLoad w
    jump := jumpOf x }

/-- A state whose block is the word's. -/
def wordState (w : Word) (s : State) : State := { s with block := wordBlock w }

/-- ALT_SELECT's lookup is the one at `sl`: the pattern says its top bit, which is not that of `sh` (R96, R212). -/
theorem exec_altRow {x : Fields} (hagree : selectsAgree x.sh x.sl = true) (hne : x.sh ≠ x.sl) (s : State) :
    exec (altRow x) s = .next (driveAlt (render x.f x.sl x.a x.b x.C) s) := by
  have hcode : ∀ sh sl : BitVec 3, selectsAgree sh sl = true → sh ≠ sl →
      (if sh.getLsbD 2 then 0#1 else 1#1) ++ sl.setWidth 2 = sl := by decide
  have hsl := hcode x.sh x.sl hagree hne
  unfold altRow
  split_ifs at hsl ⊢ with hbit
  · conv_rhs => rw [← hsl]
    rfl
  · conv_rhs => rw [← hsl]
    rfl

theorem exec_jumpRow (x : Fields) (s : State) :
    ∃ y, exec (jumpRow x) s = .next (driveJump (jumpOf x) (driveFields y s)) := by
  unfold jumpRow jumpOf
  split_ifs with hJ hS
  · exact ⟨_, rfl⟩
  · exact ⟨_, rfl⟩
  · exact ⟨_, rfl⟩

/-- Each wire that a row drives, but for the Field Decoder's outputs, it drives to what it is in `goal`. -/
def DrivesTo (goal : State) (i : Instr) : Prop :=
  ∀ s t, exec i s = .next t → ∀ wire ∈ drives i, wire ≠ .fields → sameWire goal t wire

/-- A row that drives one wire, alone or beside the Field Decoder's outputs. -/
theorem drivesTo_of_wire {goal : State} {i : Instr} {wire : Wire}
    (hdrives : drives i = [wire] ∨ drives i = [.fields, wire])
    (hexec : ∀ s, ∃ t, exec i s = .next t ∧ sameWire goal t wire) : DrivesTo goal i := by
  intro s t hnext wire' hwire' hfields
  obtain rfl : wire' = wire := by
    obtain h | h := hdrives
    · exact List.mem_singleton.1 (h ▸ hwire')
    · exact List.mem_singleton.1 ((List.mem_cons.1 (h ▸ hwire')).resolve_left hfields)
  obtain ⟨t', hnext', hsame⟩ := hexec s
  cases hnext'.symm.trans hnext
  exact hsame

theorem drivesTo_of_fields {goal : State} {i : Instr} (hdrives : drives i = [.fields]) : DrivesTo goal i :=
  fun _ _ _ _ hwire hfields => absurd (List.mem_singleton.1 (hdrives ▸ hwire)) hfields

theorem drivesTo_of_mem_bodyRows {w : Word} {u : State} {i : Instr} (hi : i ∈ bodyRows w (decodeFields w)) :
    DrivesTo (wordState w u) i := by
  cases hw : isAddrLoad w with
  | true =>
    rw [bodyRows_addrLoad hw, List.mem_singleton] at hi
    exact hi ▸ drivesTo_of_wire (wire := .addrLoad) (.inl rfl) fun s => ⟨_, rfl, hw.symm⟩
  | false =>
    have htransfer : ¬ isAddrLoad w = true := Bool.eq_false_iff.1 hw
    rw [bodyRows_transfer hw, mem_transferRows] at hi
    obtain rfl | ⟨hne, rfl | rfl⟩ | ⟨hM, rfl⟩ | rfl := hi
    · exact drivesTo_of_wire (wire := .main) (.inl (drives_aluRow ..)) fun s =>
        ⟨_, exec_aluRow .., (if_neg htransfer).symm⟩
    · exact drivesTo_of_wire (wire := .alt) (.inl (drives_altRow _)) fun s =>
        ⟨_, exec_altRow (selectsAgree_decodeFields w) hne s, (if_pos ⟨hw, hne⟩).symm⟩
    · exact drivesTo_of_wire (wire := .alt) (.inl (drives_aluRow ..)) fun s =>
        ⟨_, exec_aluRow .., (if_pos ⟨hw, hne⟩).symm⟩
    · exact drivesTo_of_wire (wire := .mux) (.inr rfl) fun s => ⟨_, rfl, (if_pos ⟨hw, hM⟩).symm⟩
    · exact drivesTo_of_wire (wire := .dest) (.inl (drives_dstRow ..)) fun s =>
        ⟨_, exec_dstRow .., (if_neg htransfer).symm⟩

theorem drivesTo_of_mem_decodeRows {w : Word} {u : State} {i : Instr} (hi : i ∈ decodeRows w) :
    DrivesTo (wordState w u) i := by
  obtain rfl | hflag | hbody | rfl := mem_decodeRows.1 hi
  · exact drivesTo_of_fields rfl
  · obtain ⟨-, rfl⟩ | ⟨-, rfl⟩ | ⟨-, rfl⟩ | ⟨-, rfl⟩ := mem_flagRows.1 hflag <;> exact drivesTo_of_fields rfl
  · exact drivesTo_of_mem_bodyRows hbody
  · refine drivesTo_of_wire (wire := .jump) (.inr (drives_jumpRow _)) fun s => ?_
    obtain ⟨y, hjump⟩ := exec_jumpRow (decodeFields w) s
    exact ⟨_, hjump, rfl⟩

/-! ### Running the rows -/

/-- What every row keeps, and what holds at the start or some row makes so, holds once all rows have run. -/
theorem runRows_establishes {P : State → Prop} {rows : List Instr}
    (hkeep : ∀ i ∈ rows, ∀ s t, exec i s = .next t → P s → P t) {s t : State} (hrun : runRows rows s = .next t)
    (h : P s ∨ ∃ i ∈ rows, ∀ s t, exec i s = .next t → P t) : P t := by
  induction rows generalizing s with
  | nil =>
    cases hrun
    obtain hs | ⟨i, hi, -⟩ := h
    · exact hs
    · cases hi
  | cons i rest ih =>
    obtain ⟨g, hexec, -⟩ := exec_drivesBlock i
    rw [runRows_cons s i rest _ (hexec s)] at hrun
    refine ih (fun j hj => hkeep j (List.mem_cons_of_mem i hj)) hrun ?_
    obtain hs | ⟨j, hj, hset⟩ := h
    · exact .inl (hkeep i List.mem_cons_self s _ (hexec s) hs)
    · obtain rfl | hj := List.mem_cons.1 hj
      · exact .inl (hset s _ (hexec s))
      · exact .inr ⟨j, hj, hset⟩

/-- A wire outside the Field Decoder is undriven and as it is when the word is presented, or some row drives it. -/
theorem presented_or_driven (w : Word) (s : State) {wire : Wire} (hfields : wire ≠ .fields) :
    sameWire (wordState w s) (presentWord w s) wire ∨ ∃ i ∈ decodeRows w, wire ∈ drives i := by
  have hbody : ∀ i ∈ bodyRows w (decodeFields w), i ∈ decodeRows w := fun i hi =>
    mem_decodeRows.2 (.inr (.inr (.inl hi)))
  have hjump : ∃ i ∈ decodeRows w, .jump ∈ drives i :=
    ⟨_, mem_decodeRows.2 (.inr (.inr (.inr rfl))), drives_jumpRow _ ▸ .tail _ (.head _)⟩
  cases hw : isAddrLoad w with
  | true =>
    rw [bodyRows_addrLoad hw] at hbody
    cases wire with
    | fields => exact absurd rfl hfields
    | main | dest => exact .inl (if_pos hw).symm
    | alt | mux => exact .inl (if_neg fun h => Bool.noConfusion (h.1.symm.trans hw)).symm
    | addrLoad => exact .inr ⟨_, hbody _ List.mem_cons_self, List.mem_cons_self⟩
    | jump => exact .inr hjump
  | false =>
    rw [bodyRows_transfer hw] at hbody
    cases wire with
    | fields => exact absurd rfl hfields
    | main => exact .inr ⟨_, hbody _ (mem_transferRows.2 (.inl rfl)), drives_aluRow .. ▸ List.mem_cons_self⟩
    | alt =>
      by_cases hne : (decodeFields w).sh ≠ (decodeFields w).sl
      · exact .inr ⟨_, hbody _ (mem_transferRows.2 (.inr (.inl ⟨hne, .inl rfl⟩))), drives_altRow _ ▸ List.mem_cons_self⟩
      · exact .inl (if_neg fun h => hne h.2).symm
    | mux =>
      by_cases hM : (decodeFields w).M = true
      · exact .inr ⟨_, hbody _ (mem_transferRows.2 (.inr (.inr (.inl ⟨hM, rfl⟩)))), .tail _ (.head _)⟩
      · exact .inl (if_neg fun h => hM h.2).symm
    | dest =>
      exact .inr ⟨_, hbody _ (mem_transferRows.2 (.inr (.inr (.inr rfl)))), drives_dstRow .. ▸ List.mem_cons_self⟩
    | addrLoad => exact .inl hw.symm
    | jump => exact .inr hjump

theorem sameWire_trans {s t u : State} {wire : Wire} (h : sameWire s t wire) (h' : sameWire t u wire) :
    sameWire s u wire := by
  cases wire <;> exact Eq.trans h' h

theorem runRows_word {w : Word} {rows : List Instr} {s t : State} (hrun : runRows rows (presentWord w s) = .next t) :
    t.block.word = some w :=
  runRows_establishes (P := fun u => u.block.word = some w)
    (fun i _ s₁ t₁ hexec hs₁ => (exec_framesWires i s₁ t₁ hexec).1.trans hs₁) hrun (.inl rfl)

section RowsOfAWord

variable {w : Word} {rows : List Instr} (hrows : ∀ i, i ∈ rows ↔ i ∈ decodeRows w) {s t : State}
  (hrun : runRows rows (presentWord w s) = .next t)

include hrows hrun

/-- The format row drives the Field Decoder's outputs wherever in the order it stands, and no row changes them then. -/
theorem runRows_fields : t.block.fields = decodeFields w := by
  refine runRows_establishes (P := fun u => u.block.fields = decodeFields w) (fun i hi s₁ t₁ hexec hs₁ => ?_) hrun
    (.inr ⟨.mw24 (decodeFields w), (hrows _).2 (mem_decodeRows.2 (.inl rfl)), fun s₁ t₁ hexec => ?_⟩)
  · obtain rfl | hi := mem_decodeRows.1 ((hrows i).1 hi)
    · cases hexec
      rfl
    · have hmem : i ∈ flagRows (decodeFields w) ++ bodyRows w (decodeFields w) ++ [jumpRow (decodeFields w)] := by
        simpa only [List.mem_append, List.mem_singleton, or_assoc] using hi
      obtain ⟨t₂, hexec', ht₂⟩ := keepsFields_of_mem hmem s₁ hs₁
      cases hexec'.symm.trans hexec
      exact ht₂
  · cases hexec
    rfl

theorem runRows_sameWire (wire : Wire) : sameWire (wordState w s) t wire := by
  by_cases hfields : wire = .fields
  · exact hfields ▸ runRows_fields hrows hrun
  · have hdrives : ∀ i ∈ rows, DrivesTo (wordState w s) i := fun i hi => drivesTo_of_mem_decodeRows ((hrows i).1 hi)
    refine runRows_establishes (P := fun u => sameWire (wordState w s) u wire) (fun i hi s₁ t₁ hexec hs₁ => ?_) hrun ?_
    · by_cases hwire : wire ∈ drives i
      · exact hdrives i hi s₁ t₁ hexec wire hwire hfields
      · obtain ⟨-, hframe⟩ := exec_framesWires i s₁ t₁ hexec
        exact sameWire_trans hs₁ (hframe wire hwire)
    · obtain hs | ⟨i, hi, hwire⟩ := presented_or_driven w s hfields
      · exact .inl hs
      · exact .inr ⟨i, (hrows i).2 hi, fun s₁ t₁ hexec => hdrives i ((hrows i).2 hi) s₁ t₁ hexec wire hwire hfields⟩

end RowsOfAWord

/-- Rows that are, as a set, those of a word leave the block at the word's and change nothing else. -/
theorem runRows_eq_wordState {w : Word} {rows : List Instr} (hrows : ∀ i, i ∈ rows ↔ i ∈ decodeRows w) (s : State) :
    runRows rows (presentWord w s) = .next (wordState w s) := by
  obtain ⟨g, hrun, -⟩ := runRows_drivesBlock rows
  have hrun := hrun (presentWord w s)
  have hwire := runRows_sameWire hrows hrun
  have hword := runRows_word hrun
  generalize g (presentWord w s).block = k at *
  have hblock : k = wordBlock w := by
    obtain ⟨word, fields, main, alt, mux, dest, addrLoad, jump⟩ := k
    exact Block.mk.injEq .. ▸ ⟨hword, hwire .fields, hwire .main, hwire .alt, hwire .mux, hwire .dest, hwire .addrLoad,
      hwire .jump⟩
  rw [hrun, hblock]
  rfl

theorem decodeWord_eq_wordState (w : Word) (s : State) : decodeWord w s = .next (wordState w s) :=
  runRows_eq_wordState (fun _ => Iff.rfl) s

/-- Settles O34: a reordering has the same rows, and the block of a word is reached by its rows as a set. -/
theorem rowOrderIsImmaterial : Obligations.RowOrderIsImmaterial := by
  intro w s rows hperm
  rw [runRows_eq_wordState fun _ => hperm.mem_iff, decodeWord_eq_wordState]

end Sys2Proof.Proofs
end

