-- ==== Sys2Proof/Proofs/Lines.lean ====
section
/-! The outputs of a listing step (spec/43_assembler.md). A step lists the block of the word that it fetches
(`step_listing`), and that block shows what the whole-block algorithms of R98, R200 and R222 give for the word
(`wordBlock_sound`), so that a claim about a line is one about a function of the word. -/

namespace Sys2Proof.Proofs

open Sys2Proof Sys2Proof.Machine Sys2Proof.Laws

/-! ### The step -/

/-- One turn of the Formatter: the block is that of the fetched word, and its row is put out. -/
theorem step_listing {s : State} (hphase : s.phase = .listing) :
    step s = .next (listWord (fetchWord s) (wordState (fetchWord s) s)) :=
  step_of_listing hphase (decodeWord_eq_wordState _ s)

/-- Settles O30: the rows' run is `decodeWord`, and the row after it is `listWord`. -/
theorem stepRunsTheDecodedRows : Obligations.StepRunsTheDecodedRows :=
  ⟨fun s hphase => ⟨_, decodeWord_eq_wordState _ s, step_listing hphase⟩,
    fun i rest s t hexec => runRows_cons s i rest t hexec, runRows_nil⟩

/-- Settles O50: the done phase is the step's last case. -/
theorem finishedRunStays : Obligations.FinishedRunStays :=
  fun _ hphase => ⟨by simp only [step, hphase], if_pos hphase⟩

/-- Settles O51: the next fetch takes the word placed, and a write leaves every other address. -/
theorem presentedWordIsFetchedAndRun : Obligations.PresentedWordIsFetchedAndRun := by
  intro s n hn
  have hfetch : fetchWord (s.withFetchWord 24 n) = BitVec.ofNat 24 n := by
    rw [fetchWord_withFetchWord, Nat.mod_eq_of_lt hn]
  exact ⟨⟨_, step_listing rfl, congrArg some hfetch⟩, fun a ha => read_write_other _ _ a _ ha, rfl, rfl, rfl, rfl⟩

/-! ### The two shapes of a word's block -/

theorem wordBlock_addrLoad {w : Word} (h : isAddrLoad w = true) :
    wordBlock w = { Block.idle with
      word := some w, fields := decodeFields w, addrLoad := true, jump := jumpOf (decodeFields w) } := by
  simp only [wordBlock, h]
  rfl

theorem bodyForm?_wordBlock (w : Word) : bodyForm? (wordBlock w) = some (bodyOf w (decodeFields w)) := by
  cases h : isAddrLoad w with
  | true => simp only [bodyForm?, bodyOf, wordBlock, h, if_pos]
  | false => simp [bodyForm?, bodyOf, wordBlock, h, muxBranch]

theorem output?_wordBlock (w : Word) : output? (wordBlock w) = some (outputOf w) := by
  rw [output?, bodyForm?_wordBlock]
  rfl

theorem jumpText_jumpOf (x : Fields) : jumpText (jumpOf x) = assembleJump x := by
  have htarget : targetText x.jumpAddress = assembleTarget x := by
    unfold Fields.jumpAddress jumpTarget assembleTarget
    split <;> rfl
  unfold jumpOf assembleJump
  split_ifs with hJ hS
  · rw [jumpText, htarget]
  · rw [jumpText, htarget]
  · rfl

/-- The body column of the block is that of R222, whose alternate and branch are texts and not wires. -/
theorem bodyCol_wordBlock (w : Word) : bodyCol (wordBlock w) = assembleBody w (decodeFields w) := by
  cases h : isAddrLoad w with
  | true => simp only [bodyCol, assembleBody, wordBlock, h, if_pos]
  | false =>
    simp only [bodyCol, assembleBody, wordBlock, h]
    by_cases hne : (decodeFields w).sh = (decodeFields w).sl <;> cases hM : (decodeFields w).M <;>
      simp [hne, muxBranch, exprsText, muxText, String.append_assoc]

theorem assembledOf_wordBlock (w : Word) : assembledOf (wordBlock w) = assemble w := by
  have hjump : jumpCol (wordBlock w) = assembleJump (decodeFields w) := jumpText_jumpOf _
  have hflags : flagsCol (wordBlock w) = (assemble w).flagsCol := rfl
  rw [assembledOf, line, hflags, hjump, bodyCol_wordBlock]
  rfl

/-- The block of a word shows the outputs of the whole-block algorithms (R98, R200, R222). -/
theorem wordBlock_sound (w : Word) : BlockSound (wordBlock w) := by
  intro w' hw'
  obtain rfl : w = w' := Option.some.inj hw'
  exact ⟨decodedOf_decodeFields w, assembledOf_wordBlock w, output?_wordBlock w⟩

/-- Settles O31: the block of the fetched word, output by output. -/
theorem stepComputesTheWholeBlockFunction : Obligations.StepComputesTheWholeBlockFunction := by
  intro s hphase
  obtain ⟨hfields, hassembled, houtput⟩ := wordBlock_sound (fetchWord s) _ rfl
  exact ⟨_, step_listing hphase, rfl, hfields, hassembled, houtput⟩

/-! ### The jump column, the flags and the lookups of a word -/

/-- `J` gates the jump column: with it set the column holds at least the arrow (R216). -/
theorem jumpCol_wordBlock_eq_empty_iff (w : Word) : jumpCol (wordBlock w) = "" ↔ w.getLsbD 2 = false := by
  have hJ : (decodeFields w).J = w.getLsbD 2 := rfl
  have hcol : jumpCol (wordBlock w) = assembleJump (decodeFields w) := jumpText_jumpOf _
  rw [hcol, assembleJump, hJ]
  cases w.getLsbD 2 with
  | false => exact ⟨fun _ => rfl, fun _ => rfl⟩
  | true => cases (decodeFields w).S <;> simp

/-- Settles O24: presence by the rows' patterns, the column by the block of the word, the rest by each row's drive. -/
theorem flagRowsActOnTheirBits : Obligations.FlagRowsActOnTheirBits := by
  refine ⟨fun w => ⟨rfl, rfl, rfl, flagH_mem_decodeRows_iff w, flagL_mem_decodeRows_iff w, flagS_mem_decodeRows_iff w⟩,
    fun w s => ⟨_, decodeWord_eq_wordState w s, jumpCol_wordBlock_eq_empty_iff w⟩,
    fun s => ⟨_, rfl, rfl, rfl, rfl, rfl⟩, fun s => ⟨_, rfl, rfl, rfl, rfl, rfl⟩,
    fun s => ⟨_, rfl, rfl, rfl, fun hJ hH => ?_⟩⟩
  simp [eos, Fields.eos, Fields.showY, eosOf, showYOf, hJ, hH]

/-- Settles O40: an address-load word's fields are those of its ADDRLOAD row, and its block has no lookup. -/
theorem addressLoadLine : Obligations.AddressLoadLine := by
  intro s hphase hw
  change isAddrLoad (fetchWord s) = true at hw
  have hfields := decodeFields_of_isAddrLoad hw
  have hbody : bodyForm? (wordBlock (fetchWord s)) = some .addressLoad :=
    (bodyForm?_wordBlock _).trans (congrArg some (if_pos hw))
  have hmarker : bodyCol (wordBlock (fetchWord s)) = addressLoadMarker := (bodyCol_wordBlock _).trans (if_pos hw)
  have hjump : jumpOf (decodeFields (fetchWord s)) =
      if (fetchWord s).getLsbD 2 then .uncond (some ((fetchWord s).extractLsb' 16 8)) else .noJump := by
    rw [jumpOf, Fields.jumpAddress, decodeFields_jaddr, hfields]
    rfl
  refine ⟨_, step_listing hphase, ?flags, hjump, hbody, hmarker, ?eos, ?showY, ?_⟩
  case flags =>
    change flagLetters (decodeFields (fetchWord s)).H (decodeFields (fetchWord s)).S (decodeFields (fetchWord s)).L = _
    rw [hfields]
    rfl
  case eos =>
    change (decodeFields (fetchWord s)).eos = (fetchWord s).getLsbD 2
    rw [hfields]
    simp [Fields.eos, eosOf, instrFields, Fields.zero]
  case showY =>
    change (decodeFields (fetchWord s)).showY = false
    rw [hfields]
    simp [Fields.showY, showYOf, instrFields, Fields.zero]
  change (wordBlock _).main = none ∧ (wordBlock _).alt = none ∧ (wordBlock _).mux = none ∧ (wordBlock _).dest = none
  rw [wordBlock_addrLoad hw]
  exact ⟨rfl, rfl, rfl, rfl⟩

/-- The expressions that a word's body shows are its lookups, in the order of their codes (R214, R267). -/
theorem shownExprs_bodyOf (w : Word) :
    shownExprs (bodyOf w (decodeFields w)) = (lookupCodes w).map fun code =>
      render (decodeFields w).f code (decodeFields w).a (decodeFields w).b (decodeFields w).C := by
  simp only [bodyOf, lookupCodes]
  split_ifs <;> rfl

/-- How many lookups a word makes: twice as many with two codes, and twice as many with `M` (R220). -/
theorem length_lookupCodes (w : Word) :
    (lookupCodes w).length = if isAddrLoad w then 0
      else (if w.getLsbD 15 ≠ w.getLsbD 14 then 2 else 1) * (if w.getLsbD 1 then 2 else 1) := by
  obtain ⟨-, -, hdiffer, -⟩ := selectCodesShareTheirLowBits w
  have hM : (decodeFields w).M = w.getLsbD 1 := rfl
  simp only [lookupCodes, ← hdiffer, ← hM]
  split_ifs <;> rfl

/-- Settles O41: the block's structured body is that of R200, whose expressions are the word's lookups. -/
theorem lookupsMadeForAWord : Obligations.LookupsMadeForAWord := by
  intro s hphase
  have hshown := shownExprs_bodyOf (fetchWord s)
  refine ⟨_, _, step_listing hphase, bodyForm?_wordBlock (fetchWord s), hshown, ?_⟩
  rw [hshown, List.length_map]
  exact length_lookupCodes (fetchWord s)

end Sys2Proof.Proofs
end

