-- ==== Sys2Proof/Proofs/Run.lean ====
section
/-! The run around the block (spec/20_memory.md section 6, spec/60_exceptions.md section 2): what a step of each phase
does, that the invariant is kept, and the Formatter's walk over the 256 addresses by induction on those that are left. -/

namespace Sys2Proof.Proofs

open Sys2Proof Sys2Proof.Machine Sys2Proof.Laws

/-! ### The steps of a run -/

/-- Everything a step can do: the load's boundary error, the load, one word listed, or nothing at the end (R262). -/
theorem step_cases {s : State} {r : Result} (h : step s = r) :
    (s.phase = .loading ∧ ∃ f, r = .fault f) ∨
    (s.phase = .loading ∧ ∃ im, readSources s.sources = .ok im ∧
      r = .next { s with phase := .listing, store := buildStore im.nibbles, dispatch := buildDispatch im.dispatch,
                         addr := 0, listing := [] }) ∨
    (s.phase = .listing ∧ r = .next (listWord (fetchWord s) (wordState (fetchWord s) s))) ∨
    (s.phase = .done ∧ r = .next s) := by
  subst h
  cases hphase : s.phase with
  | loading =>
    have hstep : step s = loadStore s := by simp only [step, hphase]
    rw [hstep]
    obtain ⟨f, -, hload⟩ | ⟨im, hread, hload⟩ := loadStore_cases s
    · exact .inl ⟨rfl, f, hload⟩
    · exact .inr (.inl ⟨rfl, im, hread, hload⟩)
  | listing => exact .inr (.inr (.inl ⟨rfl, step_listing hphase⟩))
  | done => exact .inr (.inr (.inr ⟨rfl, (finishedRunStays s hphase).1⟩))

/-- Settles O38: the cases of a step hold no refusal, and a fault in the load alone. -/
theorem onlyTheLoadCanStop : Obligations.OnlyTheLoadCanStop := by
  refine ⟨fun s r h => ?_, fun s f h => ?_, fun s hphase => ?_⟩
  · obtain ⟨-, f, hf⟩ | ⟨-, im, -, hnext⟩ | ⟨-, hnext⟩ | ⟨-, hnext⟩ := step_cases h
    · cases hf
    · cases hnext
    · cases hnext
    · cases hnext
  · obtain ⟨hload, -⟩ | ⟨hload, -⟩ | ⟨-, hnext⟩ | ⟨-, hnext⟩ := step_cases h
    · exact hload
    · exact hload
    · cases hnext
    · cases hnext
  · obtain ⟨hload, -⟩ | ⟨hload, -⟩ | ⟨-, hnext⟩ | ⟨-, hnext⟩ := step_cases (rfl : step s = _)
    · exact absurd hload hphase
    · exact absurd hload hphase
    · exact ⟨_, hnext⟩
    · exact ⟨_, hnext⟩

/-! ### The invariant -/

/-- The row that a step puts out is the one that the listing owes the address (R41). -/
theorem rowOf_wordBlock (store : Memory) (t : DispatchTable) (a : Address) :
    rowOf t a (store.read a) (wordBlock (store.read a)) = rowFor store t a := by
  have h := assembledOf_wordBlock (store.read a)
  rw [rowOf, rowFor, ← h]
  rfl

theorem rowsUpTo_succ (store : Memory) (t : DispatchTable) (a : Address) :
    rowsUpTo store t (a.toNat + 1) = rowsUpTo store t a.toNat ++ [rowFor store t a] := by
  simp [rowsUpTo, List.range_succ]

theorem rowsDone_listing {s : State} (hphase : s.phase = .listing) : rowsDone s = s.addr.toNat := by
  simp only [rowsDone, hphase]

theorem rowsDone_done {s : State} (hphase : s.phase = .done) : rowsDone s = 256 := by
  simp only [rowsDone, hphase]

/-- The last address ends the listing; at any other it goes on (R243). -/
theorem listWord_phase (w : Word) {s : State} (hphase : s.phase = .listing) :
    (s.addr = 255 ∧ (listWord w s).phase = .done) ∨ (s.addr ≠ 255 ∧ (listWord w s).phase = .listing) := by
  by_cases hlast : s.addr = 255
  · exact .inl ⟨hlast, if_pos hlast⟩
  · exact .inr ⟨hlast, (if_neg hlast).trans hphase⟩

theorem toNat_add_one_of_ne_last {a : Address} (h : a ≠ 255) : (a + 1).toNat = a.toNat + 1 := by
  bv_omega

/-- A listed word is one row more, at the last address too. -/
theorem rowsDone_listWord (w : Word) {s : State} (hphase : s.phase = .listing) :
    rowsDone (listWord w s) = s.addr.toNat + 1 := by
  obtain ⟨hlast, hdone⟩ | ⟨hmore, hlist⟩ := listWord_phase w hphase
  · rw [rowsDone_done hdone, hlast]
    rfl
  · rw [rowsDone_listing hlist]
    exact toNat_add_one_of_ne_last hmore

/-- A listed word keeps the listing true to the store. -/
theorem listingSound_listing {s : State} (hphase : s.phase = .listing) (h : ListingSound s) :
    ListingSound (listWord (fetchWord s) (wordState (fetchWord s) s)) := by
  have hdone := rowsDone_listing hphase
  unfold ListingSound at h ⊢
  rw [rowsDone_listWord (fetchWord s) (s := wordState (fetchWord s) s) hphase]
  have hrows := rowsUpTo_succ s.store s.dispatch s.addr
  rw [← rowOf_wordBlock, ← hdone, ← h, hdone] at hrows
  exact hrows.symm

/-- Settles O35: the load makes canonical tables and an empty listing and leaves the block, a listed word's block is
sound by `wordBlock_sound`, and the done phase changes nothing. -/
theorem everyStepKeepsTheInvariant : Obligations.EveryStepKeepsTheInvariant := by
  rintro s t ⟨htables, hblock, hlisting⟩ hstep
  obtain ⟨-, f, hf⟩ | ⟨-, im, -, hnext⟩ | ⟨hphase, hnext⟩ | ⟨-, hnext⟩ := step_cases hstep
  · cases hf
  · cases hnext
    exact ⟨⟨buildStore_wf im.nibbles, buildDispatch_wf im.dispatch⟩, hblock, rfl⟩
  · cases hnext
    exact ⟨htables, wordBlock_sound (fetchWord s), listingSound_listing hphase hlisting⟩
  · cases hnext
    exact ⟨htables, hblock, hlisting⟩

/-- Settles O36: with no word presented the block's part of the invariant says nothing, and no table holds an entry. -/
theorem resetMeetsTheInvariant : Obligations.ResetMeetsTheInvariant :=
  have hidle : BlockSound State.reset.block := fun _ hword => (Option.some_ne_none _ hword.symm).elim
  ⟨⟨⟨reset_store_wf, by decide⟩, hidle, rfl⟩, rfl, rfl, rfl, fun _ => ⟨rfl, rfl⟩, rfl, rfl, rfl⟩

/-! ### The walk -/

/-- From a listing true to the store, as many steps as addresses are left finish the run. -/
theorem run_listing {s : State} (hphase : s.phase = .listing) (hlisting : ListingSound s) {k : Nat}
    (hk : s.addr.toNat + k = 256) : ∃ t, Host.Core.run Sys2Proof.core k s = .next t ∧ t.phase = .done ∧
      t.store = s.store ∧ t.dispatch = s.dispatch ∧ ListingSound t := by
  induction k generalizing s with
  | zero =>
    have haddr : s.addr.toNat < 256 := s.addr.isLt
    omega
  | succ k ih =>
    have hnext := listingSound_listing hphase hlisting
    have hstep : Sys2Proof.core.step s = .next (listWord (fetchWord s) (wordState (fetchWord s) s)) :=
      step_listing hphase
    simp only [Host.Core.run, hstep]
    obtain ⟨hlast, hdone⟩ | ⟨hmore, hlist⟩ := listWord_phase (fetchWord s) (s := wordState (fetchWord s) s) hphase
    · have haddr : s.addr.toNat = 255 := congrArg BitVec.toNat hlast
      obtain rfl : k = 0 := by omega
      exact ⟨_, rfl, hdone, rfl, rfl, hnext⟩
    · have haddr : (s.addr + 1).toNat = s.addr.toNat + 1 := toNat_add_one_of_ne_last hmore
      exact ih hlist hnext (by show (s.addr + 1).toNat + k = 256; omega)

/-- Settles O37: at address 0 the empty listing is true to the store, and 256 addresses are left. -/
theorem wholeRunListsTheWholeStore : Obligations.WholeRunListsTheWholeStore := by
  intro s hphase haddr hlisting
  have hsound : ListingSound s := by
    rw [ListingSound, hlisting, rowsDone_listing hphase, haddr]
    rfl
  obtain ⟨t, hrun, hdone, hstore, hdispatch, ht⟩ := run_listing hphase hsound (k := 256) (by rw [haddr]; rfl)
  have hrows : t.listing = rowsUpTo s.store s.dispatch 256 := by
    rw [ht, hstore, hdispatch, rowsDone_done hdone]
  exact ⟨t, hrun, hdone, hstore, hdispatch, hrows, if_pos hdone⟩

end Sys2Proof.Proofs
end

