-- ==== Sys2Proof/Proofs/RowTexts.lean ====
section
/-! The rows run alone (spec/41_alu_rom_arith.md, spec/43_assembler.md sections 2 to 5) and the texts of the ROM's lookups.
The ALU rows with one operand are by `aluResult_of_aluRow`, the other rows by what each drives. Of two lookups that the
multiplexer pairs one has two terms and the other one, which shows in the text as a space (`bodyText_space_iff`). -/

namespace Sys2Proof.Proofs

open Sys2Proof Sys2Proof.Machine Sys2Proof.Laws

/-! ### The rows -/

/-- Settles O16: each row by its pair, with the text of its term and the suffix of its family (R114). -/
theorem aluArithmeticSingleOperandRows : Obligations.AluArithmeticSingleOperandRows := fun _ a b c _ =>
  ⟨aluResult_of_aluRow 0 2 (termText_plain .q) (adjustText_sfxPc c),
   aluResult_of_aluRow 0 3 (termText_reg .plain b) (adjustText_sfxPc c),
   aluResult_of_aluRow 0 4 (termText_reg .plain a) (adjustText_sfxPc c),
   aluResult_of_aluRow 0 7 (termText_plain .d) (adjustText_sfxPc c),
   aluResult_of_aluRow 1 2 (termText_plain .q) (adjustText_sfxMc c),
   aluResult_of_aluRow 1 3 (termText_reg .plain b) (adjustText_sfxMc c),
   aluResult_of_aluRow 1 4 (termText_reg .plain a) (adjustText_sfxMc c),
   aluResult_of_aluRow 1 7 rfl (adjustText_sfxMc c),
   aluResult_of_aluRow 2 2 rfl (adjustText_sfxMc c),
   aluResult_of_aluRow 2 3 (termText_reg .neg b) (adjustText_sfxMc c),
   aluResult_of_aluRow 2 4 (termText_reg .neg a) (adjustText_sfxMc c),
   aluResult_of_aluRow 2 7 (termText_plain .d) (adjustText_sfxMc c)⟩

/-- A destination row by its code (R202), given the text of its template. -/
theorem dstResult_of_dstRow (dst : BitVec 3) (showY : Bool) {b : BitVec 4} {s : State} {text : String}
    (htext : prefixText (destTable showY dst) b = text) :
    dstResult (dstRow dst showY b) dst showY b (destTable showY dst) text s :=
  ⟨rfl, exec_dstRow dst showY b s, htext⟩

theorem prefixText_names (b : BitVec 4) (x : DestName) (rest : List DestName) (hint : Hint) :
    prefixText ⟨x :: rest, hint⟩ b =
      joinComma ((x :: rest).map (destNameText b)) ++ (" = " ++ hintText hint ++ "(") := by
  simp only [prefixText, String.append_assoc]

/-- Settles O22: each row by its code, with the text of its template. -/
theorem destinationRowsSelectTheDefaultTemplates : Obligations.DestinationRowsSelectTheDefaultTemplates := by
  intro b s
  have htwo (n₁ n₂ : DestName) (hint : Hint) : prefixText ⟨[n₁, n₂], hint⟩ b =
      destNameText b n₁ ++ ", " ++ destNameText b n₂ ++ (" = " ++ hintText hint ++ "(") :=
    prefixText_names b n₁ [n₂] hint
  have hthree (n₁ n₂ n₃ : DestName) (hint : Hint) : prefixText ⟨[n₁, n₂, n₃], hint⟩ b =
      destNameText b n₁ ++ ", " ++ destNameText b n₂ ++ ", " ++ destNameText b n₃
        ++ (" = " ++ hintText hint ++ "(") := by
    simp only [prefixText_names, List.map, joinComma, String.append_assoc]
  exact ⟨dstResult_of_dstRow 0 false (prefixText_names b .q [] .none),
    dstResult_of_dstRow 0 true (htwo .y .q .none),
    dstResult_of_dstRow 1 false rfl,
    dstResult_of_dstRow 1 true (prefixText_names b .y [] .none),
    dstResult_of_dstRow 2 false (prefixText_names b .rb [] .none),
    dstResult_of_dstRow 2 true (htwo .y .rb .none),
    dstResult_of_dstRow 3 false (prefixText_names b .rb [] .none),
    dstResult_of_dstRow 3 true (htwo .y .rb .none),
    dstResult_of_dstRow 4 false (htwo .q .rb .half),
    dstResult_of_dstRow 4 true (hthree .y .q .rb .half),
    dstResult_of_dstRow 5 false (prefixText_names b .rb [] .half),
    dstResult_of_dstRow 5 true (htwo .y .rb .half),
    dstResult_of_dstRow 6 false (htwo .q .rb .double),
    dstResult_of_dstRow 6 true (hthree .y .q .rb .double),
    dstResult_of_dstRow 7 false (prefixText_names b .rb [] .double),
    dstResult_of_dstRow 7 true (htwo .y .rb .double)⟩

/-- Settles O23: each row's drive. What `eos` and `showY` become is their definition at the `J` and `S` just driven. -/
theorem jumpRowsDriveTheirForms : Obligations.JumpRowsDriveTheirForms := by
  refine ⟨fun s => ⟨_, rfl, rfl, rfl, ?_, ?_⟩, fun target s => ⟨_, rfl, rfl, rfl, ?_, ?_⟩,
    fun target s => ⟨_, rfl, rfl, rfl, ?_, ?_⟩⟩ <;>
    simp [eos, Fields.eos, Fields.showY, eosOf, showYOf]

/-- Settles O26: the row's drive is `muxBranch`; its texts are the branch's after the separator. -/
theorem muxRowAddsTheBranch : Obligations.MuxRowAddsTheBranch := by
  refine ⟨fun f sh sl a b c s => ?_, fun _ => rfl, fun _ _ => rfl⟩
  have hsecond : (if sh = sl then none else some (render f (sl ^^^ 2#3) a b c)) = (muxBranch f sh sl a b c).second := by
    simp only [muxBranch, muxSelect, ite_not]
  rw [hsecond]
  rfl

/-- Settles O27: the two bits of `sl` under a clear or a set top bit are those bits, or 4 more. -/
theorem altSelectRowsAddTheLowSelectLookup : Obligations.AltSelectRowsAddTheLowSelectLookup := by
  refine ⟨fun f ss a b c s => ?_, fun _ _ => ⟨rfl, rfl⟩⟩
  have hcode : ∀ t : BitVec 2, t.setWidth 3 = 0#1 ++ t ∧ t.setWidth 3 + 4#3 = 1#1 ++ t := by decide
  obtain ⟨hclear, hset⟩ := hcode ss
  rw [hclear] at hset ⊢
  exact ⟨rfl, hset ▸ rfl⟩

/-- Settles O28: the row drives the match, of which the body column alone is a function. -/
theorem addressLoadRowReplacesTheBody : Obligations.AddressLoadRowReplacesTheBody :=
  fun _ _ _ _ => ⟨_, rfl, rfl, rfl, rfl, rfl, rfl, rfl⟩

/-! ### The carry -/

/-- Settles O45: the family is `rom_suffix`; without a suffix both carries have one result, with one they have two. -/
theorem suffixFamilyIsFixedByTheFunctionCode : Obligations.SuffixFamilyIsFixedByTheFunctionCode := by
  refine ⟨rom_suffix, fun f s a b hf => ?_, fun f s a b hf h => ?_⟩
  · simp only [render, instantiate, rom_suffix, suffixFamily_logic hf, resolveSuffix]
  · have harith : ∀ g : BitVec 3, g.toNat < 3 →
        resolveSuffix (suffixFamily g) false ≠ resolveSuffix (suffixFamily g) true := by decide
    have hadjust := congrArg Expr.adjust h
    rw [render, render, instantiate, instantiate, rom_suffix] at hadjust
    exact harith f hf hadjust

/-! ### The text of a lookup -/

/-- Whether a body has two terms. -/
def hasTwoTerms {α : Type} : Body α → Bool
  | .one _ => false
  | .two _ _ _ => true

theorem symbolText_no_space (x : Symbol) : ' ' ∉ (symbolText x).toList := by
  cases x with
  | reg n =>
    have hdec : ∀ n : BitVec 4, ' ' ∉ (dec n).toList := by decide
    simp [symbolText, hdec n]
  | q | d | zero => decide

theorem unaryText_no_space (m : Unary) : ' ' ∉ (unaryText m).toList := by
  cases m <;> decide

theorem bodyText_space_iff (body : Body Symbol) : ' ' ∈ (bodyText body).toList ↔ hasTwoTerms body = true := by
  cases body with
  | one t => simp [bodyText, hasTwoTerms, termText, unaryText_no_space, symbolText_no_space]
  | two l op r => simp [bodyText, hasTwoTerms]

theorem hasTwoTerms_instantiateBody (a b : BitVec 4) (body : Body Opnd) :
    hasTwoTerms (instantiateBody a b body) = hasTwoTerms body := by
  cases body <;> rfl

/-- Settles O42: the two lookups have one suffix, so that equal texts would have equal bodies, of which one has two terms
and the other one. -/
theorem muxSidesAreNeverTheSame : Obligations.MuxSidesAreNeverTheSame := by
  intro f s a b c
  have hterms : ∀ g sel : BitVec 3, hasTwoTerms (rom g sel).body ≠ hasTwoTerms (rom g (sel ^^^ 2#3)).body := by decide
  have htext : exprText (render f s a b c) ≠ exprText (render f (s ^^^ 2#3) a b c) := by
    intro h
    rw [exprText_render, exprText_render, rom_suffix, rom_suffix, String.append_left_inj] at h
    have hspace := bodyText_space_iff (instantiateBody a b (rom f s).body)
    rw [h, bodyText_space_iff, hasTwoTerms_instantiateBody, hasTwoTerms_instantiateBody] at hspace
    exact hterms f s (Bool.eq_iff_iff.2 hspace.symm)
  exact ⟨htext, fun h => htext (congrArg exprText h)⟩

/-! ### The length of a lookup's text -/

/-- How many characters an operand has at most: a register two digits after its letter (R116, D6). -/
def operandWidth : Opnd → Nat
  | .ra | .rb => 3
  | .q | .d | .zero => 1

/-- How many characters a term has at most. -/
def termWidth (t : Term Opnd) : Nat := (unaryText t.mark).length + operandWidth t.operand

/-- How many characters a body has at most, the operator between two spaces (R116, D5). -/
def bodyWidth : Body Opnd → Nat
  | .one t => termWidth t
  | .two l op r => termWidth l + (opText op).length + termWidth r + 2

/-- How many characters a template's text has at most, the suffix included. -/
def templateWidth (t : Template) (c : Bool) : Nat :=
  bodyWidth t.body + (adjustText (resolveSuffix t.suffix c)).length

theorem symbolText_length (a b : BitVec 4) (o : Opnd) :
    1 ≤ (symbolText (operandSymbol a b o)).length ∧ (symbolText (operandSymbol a b o)).length ≤ operandWidth o := by
  have hreg : ∀ n : BitVec 4, 1 ≤ (symbolText (.reg n)).length ∧ (symbolText (.reg n)).length ≤ 3 := by decide
  cases o with
  | ra => exact hreg a
  | rb => exact hreg b
  | q => exact (by decide : 1 ≤ (symbolText .q).length ∧ (symbolText .q).length ≤ 1)
  | d => exact (by decide : 1 ≤ (symbolText .d).length ∧ (symbolText .d).length ≤ 1)
  | zero => exact (by decide : 1 ≤ (symbolText .zero).length ∧ (symbolText .zero).length ≤ 1)

theorem termText_length (a b : BitVec 4) (t : Term Opnd) :
    1 ≤ (termText (instantiateTerm a b t)).length ∧ (termText (instantiateTerm a b t)).length ≤ termWidth t := by
  obtain ⟨hmin, hmax⟩ := symbolText_length a b t.operand
  simp only [termText, instantiateTerm, String.length_append, termWidth]
  omega

theorem exprText_length (t : Template) (a b : BitVec 4) (c : Bool) :
    1 ≤ (exprText (instantiate t a b c)).length ∧ (exprText (instantiate t a b c)).length ≤ templateWidth t c := by
  obtain ⟨body, suffix⟩ := t
  cases body with
  | one x =>
    obtain ⟨hmin, hmax⟩ := termText_length a b x
    simp only [exprText, instantiate, instantiateBody, bodyText, String.length_append, templateWidth, bodyWidth]
    omega
  | two l op r =>
    obtain ⟨hminl, hmaxl⟩ := termText_length a b l
    obtain ⟨hminr, hmaxr⟩ := termText_length a b r
    have hspace : (" " : String).length = 1 := rfl
    simp only [exprText, instantiate, instantiateBody, bodyText, String.length_append, templateWidth, bodyWidth, hspace]
    omega

/-- Settles O43: the bounds of every template's text, over the 64 templates and both carries. -/
theorem romHolds64NonEmptyEntries : Obligations.RomHolds64NonEmptyEntries := by
  refine ⟨rfl, romTable_romIndex, fun f s a b c => ?_⟩
  have hwidth : ∀ (g sel : BitVec 3) (d : Bool), templateWidth (rom g sel) d ≤ 13 := by decide
  obtain ⟨hmin, hmax⟩ := exprText_length (rom f s) a b c
  refine ⟨fun hempty => ?_, hmax.trans (hwidth f s c)⟩
  rw [render] at hempty
  rw [hempty] at hmin
  exact absurd hmin (by decide)

end Sys2Proof.Proofs
end

