-- ==== Sys2Proof/Proofs/Load.lean ====
section
/-! The Word Store's load (spec/20_memory.md section 2, spec/60_exceptions.md sections 2 and 4). The sources are read one
after another, so that the error met first is `firstFailure` (`failure_bind_readSource`); a read of the built store is
the word made for its address, and a label is the last code whose byte names the address. -/

namespace Sys2Proof.Proofs

open Sys2Proof Sys2Proof.Machine Sys2Proof.Laws

/-! ### The order of the errors -/

/-- The fault that a reading ends in, if it does. -/
def failureOf {α : Type} : Except Fault α → Option Fault
  | .error f => some f
  | .ok _ => none

theorem failureOf_eq_some {α : Type} {x : Except Fault α} {f : Fault} (h : failureOf x = some f) : x = .error f := by
  cases x with
  | error g => exact congrArg Except.error (Option.some.inj h)
  | ok v => cases h

theorem failureOf_eq_none {α : Type} {x : Except Fault α} (h : failureOf x = none) : ∃ v, x = .ok v := by
  cases x with
  | error g => cases h
  | ok v => exact ⟨v, rfl⟩

/-- A source is opened and read before the next one is (R246, D24). -/
theorem failureOf_bind_readSource {α : Type} (id : SourceId) (count : Nat) (src : Source)
    {rest : List (SourceId × Nat × Source)} {next : List Byte → Except Fault α}
    (h : ∀ bytes, failureOf (next bytes) = firstFailure rest) :
    failureOf (readSource id count src >>= next) = firstFailure ((id, count, src) :: rest) := by
  obtain ⟨rfl, hread⟩ | ⟨bytes, rfl, hshort, hread⟩ | ⟨bytes, rfl, hlong, hread⟩ := readSource_cases id count src
  · rw [hread]
    rfl
  · rw [hread, firstFailure, if_pos hshort]
    rfl
  · rw [hread, firstFailure, if_neg (Nat.not_lt.2 hlong)]
    exact h _

theorem failureOf_readSources (s : Sources) : failureOf (readSources s) = firstFailure (sourceOrder s) :=
  failureOf_bind_readSource _ _ _ fun _ => failureOf_bind_readSource _ _ _ fun _ =>
    failureOf_bind_readSource _ _ _ fun _ => failureOf_bind_readSource _ _ _ fun _ =>
      failureOf_bind_readSource _ _ _ fun _ => failureOf_bind_readSource _ _ _ fun _ =>
        failureOf_bind_readSource _ _ _ fun _ => rfl

/-- A load whose sources can all be read makes store and table of them and starts the listing. -/
theorem step_loading_ok {s : State} (hphase : s.phase = .loading) {im : Images} (h : readSources s.sources = .ok im) :
    step s = .next { s with phase := .listing, store := buildStore im.nibbles, dispatch := buildDispatch im.dispatch,
                            addr := 0, listing := [] } := by
  simp only [step, hphase, loadStore, h]

theorem step_loading_error {s : State} (hphase : s.phase = .loading) {f : Fault}
    (h : readSources s.sources = .error f) : step s = .fault f := by
  simp only [step, hphase, loadStore, h, boundaryError]

/-- Settles O46: the load's fault is that of reading the sources, which is `firstFailure` of their order. -/
theorem sourceErrorsInTheOrderTaken : Obligations.SourceErrorsInTheOrderTaken := by
  refine ⟨fun s hphase => ?_, fun id => ⟨rfl, rfl⟩⟩
  rw [← failureOf_readSources]
  refine ⟨fun f hf => step_loading_error hphase (failureOf_eq_some hf), fun hnone => ?_⟩
  obtain ⟨im, him⟩ := failureOf_eq_none hnone
  exact ⟨_, step_loading_ok hphase him, rfl, rfl, rfl, rfl, rfl⟩

/-! ### The words of the store -/

theorem readSource_of_le {id : SourceId} {count : Nat} {bytes : List Byte} (h : count ≤ bytes.length) :
    readSource id count (some bytes) = .ok (bytes.take count) :=
  if_neg (Nat.not_lt.2 h)

/-- What a table made of the non-zero words of some keys holds at a key. -/
theorem tableGet?_filterMap (g : Nat → Word) (keys : List Nat) (a : Nat) :
    (tableGet? (keys.filterMap fun k => if g k = 0 then none else some (k, g k)) a).getD 0 =
      if a ∈ keys then g a else 0 := by
  induction keys with
  | nil => rfl
  | cons k rest ih =>
    by_cases hzero : g k = 0
    · simp only [List.filterMap_cons, hzero, if_pos, ih, List.mem_cons]
      by_cases hak : a = k
      · subst hak
        simp [hzero]
      · simp [hak]
    · simp only [List.filterMap_cons, hzero, if_false, tableGet?, List.mem_cons]
      by_cases hak : a = k
      · simp [hak]
      · simpa [hak] using ih

theorem read_buildStore (nibbles : List (List Byte)) (a : Address) :
    (buildStore nibbles).read a = wordAt nibbles a.toNat :=
  (tableGet?_filterMap (wordAt nibbles) _ _).trans (if_pos (List.mem_range.2 a.isLt))

/-- Six nibbles as a word, nibble 0 the least significant (R32). -/
def nibbleWord (n0 n1 n2 n3 n4 n5 : BitVec 4) : Word :=
  placeAt 0 n0 ||| placeAt 4 n1 ||| placeAt 8 n2 ||| placeAt 12 n3 ||| placeAt 16 n4 ||| placeAt 20 n5

theorem nibbleWord_slices (n0 n1 n2 n3 n4 n5 : BitVec 4) :
    (nibbleWord n0 n1 n2 n3 n4 n5).extractLsb' 0 4 = n0 ∧ (nibbleWord n0 n1 n2 n3 n4 n5).extractLsb' 4 4 = n1 ∧
    (nibbleWord n0 n1 n2 n3 n4 n5).extractLsb' 8 4 = n2 ∧ (nibbleWord n0 n1 n2 n3 n4 n5).extractLsb' 12 4 = n3 ∧
    (nibbleWord n0 n1 n2 n3 n4 n5).extractLsb' 16 4 = n4 ∧ (nibbleWord n0 n1 n2 n3 n4 n5).extractLsb' 20 4 = n5 := by
  refine ⟨?_, ?_, ?_, ?_, ?_, ?_⟩ <;>
  · apply BitVec.eq_of_getLsbD_eq
    intro k hk
    interval_cases k <;> simp [nibbleWord, placeAt]

/-- A byte below 16 is its low nibble. -/
theorem setWidth_nibble {b : Byte} (h : b.toNat < 16) : (b.setWidth 4).setWidth 24 = b.setWidth 24 := by
  apply BitVec.eq_of_toNat_eq
  simp only [BitVec.toNat_setWidth]
  omega

/-- R32's formula, under D20's precondition. -/
theorem assembleWord_of_lt {c0 c1 c2 c3 c4 c5 : Byte} (h : ∀ c ∈ [c0, c1, c2, c3, c4, c5], c.toNat < 16) :
    assembleWord [c0, c1, c2, c3, c4, c5] = c0.setWidth 24 ||| c1.setWidth 24 <<< 4 ||| c2.setWidth 24 <<< 8
      ||| c3.setWidth 24 <<< 12 ||| c4.setWidth 24 <<< 16 ||| c5.setWidth 24 <<< 20 := by
  have hall : [c0, c1, c2, c3, c4, c5].all (fun b => decide (b.toNat < 16)) = true :=
    List.all_eq_true.2 fun c hc => decide_eq_true (h c hc)
  rw [assembleWord, if_pos hall]
  simp [orNibbles, BitVec.or_assoc]

/-- So source `i`'s byte is nibble `i` of the word (R32). -/
theorem assembleWord_eq_nibbleWord {c0 c1 c2 c3 c4 c5 : Byte} (h : ∀ c ∈ [c0, c1, c2, c3, c4, c5], c.toNat < 16) :
    assembleWord [c0, c1, c2, c3, c4, c5] = nibbleWord (c0.setWidth 4) (c1.setWidth 4) (c2.setWidth 4) (c3.setWidth 4)
      (c4.setWidth 4) (c5.setWidth 4) := by
  rw [assembleWord_of_lt h]
  simp only [List.forall_mem_cons] at h
  obtain ⟨h0, h1, h2, h3, h4, h5, -⟩ := h
  simp only [nibbleWord, placeAt, setWidth_nibble h0, setWidth_nibble h1, setWidth_nibble h2, setWidth_nibble h3,
    setWidth_nibble h4, setWidth_nibble h5, BitVec.shiftLeft_zero]

theorem getD_take_of_lt {bytes : List Byte} {count a : Nat} (ha : a < count) :
    (bytes.take count).getD a 0 = bytes.getD a 0 := by
  simp [List.getD_eq_getElem?_getD, ha]

theorem getD_mem_take {bytes : List Byte} {count a : Nat} (ha : a < count) (hlen : count ≤ bytes.length) :
    bytes.getD a 0 ∈ bytes.take count := by
  rw [← getD_take_of_lt ha, List.getD_eq_getElem _ _ (by rw [List.length_take]; omega)]
  exact List.getElem_mem _

/-- Settles O47: the load reads the first 256 bytes of each source, and its word at an address is `assembleWord` of the
six bytes there. -/
theorem loadAssemblesWordsFromNibbles : Obligations.LoadAssemblesWordsFromNibbles := by
  intro s b0 b1 b2 b3 b4 b5 d hphase hsources hbytes hd
  have hread : readSources s.sources =
      .ok { nibbles := [b0, b1, b2, b3, b4, b5].map (·.take 256), dispatch := d.take 32 } := by
    have hlen : ∀ b ∈ [b0, b1, b2, b3, b4, b5], 256 ≤ b.length := fun b hb => (hbytes b hb).1
    simp only [List.forall_mem_cons] at hlen
    obtain ⟨hl0, hl1, hl2, hl3, hl4, hl5, -⟩ := hlen
    simp only [readSources, hsources, Config.nibbleBytes, Config.dispatchBytes, readSource_of_le, hl0, hl1, hl2, hl3,
      hl4, hl5, hd]
    rfl
  refine ⟨_, step_loading_ok hphase hread, fun a => ?_⟩
  have hnibble : ∀ c ∈ [b0.getD a.toNat 0, b1.getD a.toNat 0, b2.getD a.toNat 0, b3.getD a.toNat 0, b4.getD a.toNat 0,
      b5.getD a.toNat 0], c.toNat < 16 := by
    intro c hc
    obtain ⟨b, hb, rfl⟩ : ∃ b ∈ [b0, b1, b2, b3, b4, b5], b.getD a.toNat 0 = c := by
      simpa only [List.map_cons, List.map_nil] using List.mem_map (f := fun b : List Byte => b.getD a.toNat 0).1 hc
    obtain ⟨hlen, hlt⟩ := hbytes b hb
    exact hlt _ (getD_mem_take a.isLt hlen)
  have hword : (buildStore ([b0, b1, b2, b3, b4, b5].map (·.take 256))).read a = assembleWord [b0.getD a.toNat 0,
      b1.getD a.toNat 0, b2.getD a.toNat 0, b3.getD a.toNat 0, b4.getD a.toNat 0, b5.getD a.toNat 0] := by
    simp only [read_buildStore, wordAt, List.map_cons, List.map_nil, getD_take_of_lt a.isLt]
  have hslices := nibbleWord_slices ((b0.getD a.toNat 0).setWidth 4) ((b1.getD a.toNat 0).setWidth 4)
    ((b2.getD a.toNat 0).setWidth 4) ((b3.getD a.toNat 0).setWidth 4) ((b4.getD a.toNat 0).setWidth 4)
    ((b5.getD a.toNat 0).setWidth 4)
  rw [← assembleWord_eq_nibbleWord hnibble, ← hword] at hslices
  exact ⟨hword.trans (assembleWord_of_lt hnibble), hslices⟩

/-! ### The dispatch table -/

/-- The last byte of a source that names an address is at this index (R33). -/
def IsLastIndexOf (a : Address) (bytes : List Byte) (k : Nat) : Prop :=
  bytes[k]? = some a ∧ ∀ k', k < k' → bytes[k']? ≠ some a

theorem IsLastIndexOf.unique {a : Address} {bytes : List Byte} {k k' : Nat} (h : IsLastIndexOf a bytes k)
    (h' : IsLastIndexOf a bytes k') : k = k' := by
  obtain ⟨hk, hlast⟩ := h
  obtain ⟨hk', hlast'⟩ := h'
  obtain hlt | heq | hgt := Nat.lt_trichotomy k k'
  · exact absurd hk' (hlast k' hlt)
  · exact heq
  · exact absurd hk (hlast' k hgt)

theorem IsLastIndexOf.cons {a : Address} {bytes : List Byte} {k : Nat} (b : Byte) (h : IsLastIndexOf a bytes k) :
    IsLastIndexOf a (b :: bytes) (k + 1) := by
  obtain ⟨hk, hlast⟩ := h
  refine ⟨hk, fun k' hk' => ?_⟩
  obtain ⟨m, rfl⟩ : ∃ m, k' = m + 1 := ⟨k' - 1, by omega⟩
  exact hlast m (by omega)

theorem isLastIndexOf_head {a : Address} {bytes : List Byte} (h : a ∉ bytes) : IsLastIndexOf a (a :: bytes) 0 := by
  refine ⟨rfl, fun k' hk' hget => ?_⟩
  obtain ⟨m, rfl⟩ : ∃ m, k' = m + 1 := ⟨k' - 1, by omega⟩
  exact h (List.mem_of_getElem? hget)

/-- Adding the entries of a source labels an address with the code of the last byte that names it, and leaves the label
of an address that no byte names. -/
theorem tableGet?_addDispatch (a : Address) (bytes : List Byte) (i : Nat) (t : DispatchTable) :
    (∃ k, IsLastIndexOf a bytes k ∧ tableGet? (addDispatch i t bytes) a.toNat = some (BitVec.ofNat 5 (i + k))) ∨
    (a ∉ bytes ∧ tableGet? (addDispatch i t bytes) a.toNat = tableGet? t a.toNat) := by
  induction bytes generalizing i t with
  | nil => exact .inr ⟨List.not_mem_nil, rfl⟩
  | cons b rest ih =>
    obtain ⟨k, hk, hget⟩ | ⟨hrest, hget⟩ := ih (i + 1) (tableSet b.toNat (BitVec.ofNat 5 i) t)
    · exact .inl ⟨k + 1, hk.cons b, by rw [addDispatch, hget, Nat.add_right_comm, Nat.add_assoc]⟩
    · by_cases hab : a = b
      · subst hab
        exact .inl ⟨0, isLastIndexOf_head hrest, hget.trans (tableGet_tableSet_same _ _ _)⟩
      · have hkey : a.toNat ≠ b.toNat := fun h => hab (BitVec.eq_of_toNat_eq h)
        exact .inr ⟨fun hmem => (List.mem_cons.1 hmem).elim hab hrest,
          hget.trans (tableGet_tableSet_other _ _ _ _ hkey)⟩

/-- The labels that a dispatch source of at most 32 bytes gives (R33). -/
theorem label_buildDispatch {bytes : List Byte} (hlen : bytes.length ≤ 32) (a : Address) :
    (∀ c : BitVec 5, (buildDispatch bytes).label a = some c ↔ IsLastIndexOf a bytes c.toNat) ∧
      ((buildDispatch bytes).label a = none ↔ a ∉ bytes) := by
  unfold DispatchTable.label buildDispatch
  obtain ⟨k, hk, hget⟩ | ⟨hmem, hget⟩ := tableGet?_addDispatch a bytes 0 []
  · have hbound : k < 32 := by
      obtain ⟨hlt, -⟩ := List.getElem?_eq_some_iff.1 hk.1
      omega
    rw [hget, Nat.zero_add]
    refine ⟨fun c => ⟨fun hc => ?_, fun hc => ?_⟩, fun h => absurd h (Option.some_ne_none _), fun h => ?_⟩
    · have hnat : c.toNat = k := by
        rw [← Option.some.inj hc, BitVec.toNat_ofNat]
        omega
      exact hnat ▸ hk
    · rw [hk.unique hc, BitVec.ofNat_toNat, BitVec.setWidth_eq]
    · exact absurd (List.mem_of_getElem? hk.1) h
  · rw [hget]
    exact ⟨fun c => ⟨fun hc => absurd hc.symm (Option.some_ne_none _),
        fun hc => absurd (List.mem_of_getElem? hc.1) hmem⟩,
      fun _ => hmem, fun _ => rfl⟩

/-- What is bound to a reading that succeeds was given what the reading answered. -/
theorem ok_of_bind_eq_ok {α β : Type} {x : Except Fault α} {next : α → Except Fault β} {v : β}
    (h : (x >>= next) = .ok v) : ∃ u, x = .ok u ∧ next u = .ok v := by
  cases x with
  | error f => cases h
  | ok u => exact ⟨u, rfl, h⟩

theorem readSources_dispatch {s : Sources} {im : Images} (h : readSources s = .ok im) :
    readSource .dispatch Config.dispatchBytes s.dispatch = .ok im.dispatch := by
  obtain ⟨_, -, h⟩ := ok_of_bind_eq_ok h
  obtain ⟨_, -, h⟩ := ok_of_bind_eq_ok h
  obtain ⟨_, -, h⟩ := ok_of_bind_eq_ok h
  obtain ⟨_, -, h⟩ := ok_of_bind_eq_ok h
  obtain ⟨_, -, h⟩ := ok_of_bind_eq_ok h
  obtain ⟨_, -, h⟩ := ok_of_bind_eq_ok h
  obtain ⟨d, hd, h⟩ := ok_of_bind_eq_ok h
  cases h
  exact hd

/-- The first 32 bytes alone count: an index from 32 on names nothing (D27). -/
theorem isLastIndexOf_take {a : Address} {bytes : List Byte} {k : Nat} (hk : k < 32) :
    IsLastIndexOf a (bytes.take 32) k ↔ bytes[k]? = some a ∧ ∀ k', k < k' → k' < 32 → bytes[k']? ≠ some a := by
  unfold IsLastIndexOf
  rw [List.getElem?_take_of_lt hk]
  refine and_congr_right fun _ => forall₂_congr fun k' _ => ?_
  by_cases hk' : k' < 32
  · simp [hk']
  · simp [hk']

/-- Settles O48: the table of the source by `label_buildDispatch`, and the load's source is the first 32 bytes. -/
theorem lastDispatchCodeOfAnAddressWins : Obligations.LastDispatchCodeOfAnAddressWins := by
  refine ⟨fun bytes a hlen => label_buildDispatch hlen.le a, fun s bytes hphase hnone hsource => ?_⟩
  obtain ⟨im, him⟩ := failureOf_eq_none ((failureOf_readSources s.sources).trans hnone)
  have hdispatch : im.dispatch = bytes.take 32 := by
    have hread := readSources_dispatch him
    rw [hsource, readSource] at hread
    split_ifs at hread with hshort
    exact (Except.ok.inj hread).symm
  refine ⟨_, step_loading_ok hphase him, fun a => ?_⟩
  obtain ⟨hlabel, habsent⟩ := label_buildDispatch (List.length_take_le 32 bytes) a
  rw [← hdispatch] at hlabel habsent
  exact ⟨fun c => (hlabel c).trans (hdispatch ▸ isLastIndexOf_take c.isLt), hdispatch ▸ habsent⟩

/-! ### Stores in canonical form -/

/-- In a table with rising keys a key holds the value that it is listed with. -/
theorem tableGet?_eq_some_iff {α : Type} {t : List (Nat × α)} (h : tableSorted t) {a : Nat} {v : α} :
    tableGet? t a = some v ↔ (a, v) ∈ t := by
  induction t with
  | nil => simp [tableGet?]
  | cons e rest ih =>
    obtain ⟨b, u⟩ := e
    obtain ⟨hrising, hrest⟩ := List.pairwise_cons.1 h
    rw [tableGet?, List.mem_cons, Prod.mk.injEq]
    by_cases hab : a = b
    · subst hab
      have hnot : (a, v) ∉ rest := fun hmem => Nat.lt_irrefl a (hrising _ hmem)
      simp [hnot, eq_comm]
    · simp [hab, ih hrest]

/-- The entries of a store in canonical form are its non-zero words. -/
theorem mem_store_iff {m : Memory} (h : m.wf) (a : Address) (w : Word) :
    (a.toNat, w) ∈ m ↔ w ≠ 0 ∧ m.read a = w := by
  obtain ⟨hsorted, hentries⟩ := h
  rw [← tableGet?_eq_some_iff hsorted, Memory.read]
  constructor
  · intro hget
    obtain ⟨-, hne⟩ := hentries _ ((tableGet?_eq_some_iff hsorted).1 hget)
    exact ⟨hne, by rw [hget]; rfl⟩
  · rintro ⟨hne, hread⟩
    cases hget : tableGet? m a.toNat with
    | none => rw [hget] at hread; exact absurd hread.symm hne
    | some u => rw [hget] at hread; exact congrArg some hread

theorem store_subset {m m' : Memory} (h : m.wf) (h' : m'.wf) (hread : ∀ a : Address, m.read a = m'.read a) :
    m ⊆ m' := by
  rintro ⟨k, w⟩ hmem
  obtain ⟨hk, -⟩ := h.2 _ hmem
  have haddr : (BitVec.ofNat 8 k).toNat = k := Nat.mod_eq_of_lt hk
  rw [← haddr, mem_store_iff h, hread, ← mem_store_iff h'] at hmem
  rwa [← haddr]

/-- Settles O49: the two have the same entries, and lists of rising keys with the same entries are equal. -/
theorem equalWordsMeanEqualStores : Obligations.EqualWordsMeanEqualStores := by
  intro m m' h h' hread
  have hirrefl : Std.Irrefl fun x y : Nat × Word => x.1 < y.1 := ⟨fun x => Nat.lt_irrefl x.1⟩
  have hantisymm : Std.Antisymm fun x y : Nat × Word => x.1 < y.1 := ⟨fun x y hxy hyx => absurd hxy (Nat.lt_asymm hyx)⟩
  exact List.Subset.antisymm_of_pairwise h.1 h'.1 (store_subset h h' hread)
    (store_subset h' h fun a => (hread a).symm)

end Sys2Proof.Proofs
end
